-- ==== Sys2Proof/Word.lean ====
section
/-! DEFINITION. The data types of the block: register words, bytes, and blocks as byte sequences. -/

namespace Sys2Proof

/-- A register word or a command word: 32 bits, bit 0 least significant (R18). -/
abbrev Word := BitVec 32

/-- A byte: unsigned, bit 7 most significant (R16). -/
abbrev Byte := BitVec 8

/-- A block or a segment: bytes in stream order, byte 0 first (R16). A block has exactly `BS` of them; that is an
invariant of the state (`Machine.State.Inv` in Safety), not part of the type. -/
abbrev Block := List Byte

/-- `0^n`: n zero bytes (R19). -/
abbrev zeros (n : Nat) : Block := List.replicate n 0

end Sys2Proof
end

