-- ==== Sys2Proof/Syntax.lean ====
section
/-! DEFINITION. Modes, directions and the 22 commands of spec/opcode_table.json (R112, R114). -/

namespace Sys2Proof

/-- The mode of operation (R20, R112). -/
inductive Mode where
  | ecb | cbc | cfb | ofb | ctr | cmac
deriving DecidableEq, Repr

/-- The direction of a data command (R20): 0 is encrypt, 1 is decrypt. -/
inductive Dir where
  | encrypt | decrypt
deriving DecidableEq, Repr

/-- A decoded command: one constructor per row of the opcode table (R114). `len` is the LEN field, a byte count (R113). -/
inductive Instr where
  | ldivCbc
  | ldivCfb
  | ldivOfb
  | ldivCtr
  | chrst
  | encEcb (len : Nat)
  | decEcb (len : Nat)
  | encfEcb (len : Nat)
  | decfEcb (len : Nat)
  | encCbc (len : Nat)
  | decCbc (len : Nat)
  | encfCbc (len : Nat)
  | decfCbc (len : Nat)
  | encCfb (len : Nat)
  | decCfb (len : Nat)
  | encOfb (len : Nat)
  | decOfb (len : Nat)
  | encCtr (len : Nat)
  | decCtr (len : Nat)
  | derive
  | macuCmac (len : Nat)
  | macfCmac (len : Nat)
deriving DecidableEq, Repr

/-- The OP of a data command (R111): what R144 checks and R145 gives a length range. -/
inductive DataOp where
  | enc | dec | encf | decf | macu | macf
deriving DecidableEq, Repr

/-- The direction of a data command: `dir <- 1 if op ∈ {DEC, DECF} else 0` (R144). -/
def DataOp.dir : DataOp → Dir
  | .dec | .decf => .decrypt
  | .enc | .encf | .macu | .macf => .encrypt

/-- OP, MODE and LEN of a data command; nothing for LDIV, CHRST and DERIVE (R144). -/
def Instr.dataForm : Instr → Option (DataOp × Mode × Nat)
  | .ldivCbc | .ldivCfb | .ldivOfb | .ldivCtr | .chrst | .derive => none
  | .encEcb n => some (.enc, .ecb, n)
  | .decEcb n => some (.dec, .ecb, n)
  | .encfEcb n => some (.encf, .ecb, n)
  | .decfEcb n => some (.decf, .ecb, n)
  | .encCbc n => some (.enc, .cbc, n)
  | .decCbc n => some (.dec, .cbc, n)
  | .encfCbc n => some (.encf, .cbc, n)
  | .decfCbc n => some (.decf, .cbc, n)
  | .encCfb n => some (.enc, .cfb, n)
  | .decCfb n => some (.dec, .cfb, n)
  | .encOfb n => some (.enc, .ofb, n)
  | .decOfb n => some (.dec, .ofb, n)
  | .encCtr n => some (.enc, .ctr, n)
  | .decCtr n => some (.dec, .ctr, n)
  | .macuCmac n => some (.macu, .cmac, n)
  | .macfCmac n => some (.macf, .cmac, n)

end Sys2Proof
end

