-- ==== Sys2Proof/WellFormed.lean ====
section
/-! DEFINITION. When a command fits its encoding. -/

namespace Sys2Proof

/-- A command is well-formed when its byte count fits the unsigned 5-bit LEN field, 0 to 31 (R113). Whether the count is
legal for the command is a check of the engine step (R145), not of the encoding (R114). -/
def Instr.wf : Instr → Bool
  | .ldivCbc | .ldivCfb | .ldivOfb | .ldivCtr | .chrst | .derive => true
  | .encEcb n | .decEcb n | .encfEcb n | .decfEcb n | .encCbc n | .decCbc n | .encfCbc n | .decfCbc n
  | .encCfb n | .decCfb n | .encOfb n | .decOfb n | .encCtr n | .decCtr n | .macuCmac n | .macfCmac n => n < 32

/-- `Instr.wf` as a proposition. -/
abbrev Instr.WellFormed (i : Instr) : Prop := i.wf = true

end Sys2Proof
end

