-- ==== Sys2Proof/Decode.lean ====
section
/-! DEFINITION. The command encoding (30_encoding.md): decoder, encoder, and the host's view of the decoder. -/

namespace Sys2Proof

/-- `w[lo+n-1 : lo]`, the unsigned field of `n` bits at bit `lo` (R18). -/
def field (w : Word) (lo n : Nat) : Nat := w.toNat / 2 ^ lo % 2 ^ n

/-- Why a word is illegal: the cases of R115. All of them raise the same error, IllegalCommand. -/
inductive Reject where
  /-- Bit 7 or a bit of [31:13] is 1. -/
  | reservedBits
  /-- OP is 0x0 or 0xA to 0xF. -/
  | reservedOp
  /-- MODE is 6 or 7. -/
  | reservedMode
  /-- LDIV with MODE = ECB or CMAC. -/
  | ldivMode
  /-- ENC or DEC with MODE = CMAC. -/
  | cmacMode
  /-- ENCF or DECF with a mode that takes no padding. -/
  | paddingMode
  /-- MACU or MACF with a mode other than CMAC. -/
  | macMode
  /-- DERIVE or CHRST with a MODE other than 0. -/
  | modeNotZero
  /-- LDIV, DERIVE or CHRST with a LEN other than 0. -/
  | lenNotZero
deriving DecidableEq, Repr

/-- The name of the illegality of an OP and MODE that no row of R114 has. -/
def rejectFields (op mode : Nat) : Reject :=
  if op = 0 ∨ 10 ≤ op then .reservedOp
  else if 6 ≤ mode then .reservedMode
  else if op = 1 then .ldivMode
  else if op = 2 ∨ op = 3 then .cmacMode
  else if op = 4 ∨ op = 5 then .paddingMode
  else if op = 6 ∨ op = 7 then .macMode
  else .modeNotZero

/-- A command that takes no length: its LEN field must be 0 (R113). -/
def takesNoLen (len : Nat) (i : Instr) : Except Reject Instr :=
  if len = 0 then .ok i else .error .lenNotZero

/-- The rows of R114, by OP and MODE. -/
def decodeFields (op mode len : Nat) : Except Reject Instr :=
  match op, mode with
  | 0x1, 1 => takesNoLen len .ldivCbc
  | 0x1, 2 => takesNoLen len .ldivCfb
  | 0x1, 3 => takesNoLen len .ldivOfb
  | 0x1, 4 => takesNoLen len .ldivCtr
  | 0x2, 0 => .ok (.encEcb len)
  | 0x2, 1 => .ok (.encCbc len)
  | 0x2, 2 => .ok (.encCfb len)
  | 0x2, 3 => .ok (.encOfb len)
  | 0x2, 4 => .ok (.encCtr len)
  | 0x3, 0 => .ok (.decEcb len)
  | 0x3, 1 => .ok (.decCbc len)
  | 0x3, 2 => .ok (.decCfb len)
  | 0x3, 3 => .ok (.decOfb len)
  | 0x3, 4 => .ok (.decCtr len)
  | 0x4, 0 => .ok (.encfEcb len)
  | 0x4, 1 => .ok (.encfCbc len)
  | 0x5, 0 => .ok (.decfEcb len)
  | 0x5, 1 => .ok (.decfCbc len)
  | 0x6, 5 => .ok (.macuCmac len)
  | 0x7, 5 => .ok (.macfCmac len)
  | 0x8, 0 => takesNoLen len .derive
  | 0x9, 0 => takesNoLen len .chrst
  | op, mode => .error (rejectFields op mode)

/-- The decoder: total on words, refusing by name (R110, R114, R115). -/
def decode (w : Word) : Except Reject Instr :=
  if field w 7 1 ≠ 0 ∨ field w 13 19 ≠ 0 then .error .reservedBits
  else decodeFields (field w 0 4) (field w 4 3) (field w 8 5)

/-- `OP | MODE<<4 | len<<8` (R117). -/
def command (op mode len : Nat) : Word := BitVec.ofNat 32 (op + 16 * mode + 256 * len)

/-- The encoder (R117, with the numbers of R111 and R112). -/
def encode : Instr → Word
  | .ldivCbc => command 0x1 1 0
  | .ldivCfb => command 0x1 2 0
  | .ldivOfb => command 0x1 3 0
  | .ldivCtr => command 0x1 4 0
  | .chrst => command 0x9 0 0
  | .encEcb n => command 0x2 0 n
  | .decEcb n => command 0x3 0 n
  | .encfEcb n => command 0x4 0 n
  | .decfEcb n => command 0x5 0 n
  | .encCbc n => command 0x2 1 n
  | .decCbc n => command 0x3 1 n
  | .encfCbc n => command 0x4 1 n
  | .decfCbc n => command 0x5 1 n
  | .encCfb n => command 0x2 2 n
  | .decCfb n => command 0x3 2 n
  | .encOfb n => command 0x2 3 n
  | .decOfb n => command 0x3 3 n
  | .encCtr n => command 0x2 4 n
  | .decCtr n => command 0x3 4 n
  | .derive => command 0x8 0 0
  | .macuCmac n => command 0x6 5 n
  | .macfCmac n => command 0x7 5 n

/-- The host's question: the instruction of a word numbered as the opcode table numbers its bits. A command is one
32-bit bus word (R110), so no bit may stand above bit 31, and the bits above `nbits` are 0. -/
def decodeTableWord (nbits w : Nat) : Option Instr :=
  if nbits ≤ 32 ∧ w < 2 ^ 32 then (decode (BitVec.ofNat 32 w)).toOption else none

end Sys2Proof
end

