-- ==== Sys2Proof/Config.lean ====
section
/-! DEFINITION. What an instance of the block fixes (R6 to R14) and the one uninterpreted constant of the model:
the attached block cipher. -/

namespace Sys2Proof

/-- The blocks of `n` bytes, as a type: what the attached cipher permutes. -/
abbrev SizedBlock (n : Nat) := { b : Block // b.length = n }

/-- The attached primitive (R10): for each block size and key slot a permutation of the blocks of that size. It has NO
body: a statement about it holds for every primitive that R10 allows. `E(s, ·)` is the permutation, `D(s, ·)` its
inverse, so R10's properties (a), (b) and (c) hold by its type. (93 U11; assumption log 2.) -/
opaque Config.cipher (n : Nat) (slot : BitVec 8) : Equiv.Perm (SizedBlock n)

/-- Which primitive stands behind the port. -/
inductive Primitive where
  /-- The attached cipher: uninterpreted (`Config.cipher`). -/
  | attached
  /-- DESIGN CHOICE (assumption log 3), safe: the TOY fixture of 95_test_vectors.md section 2.1,
  `E(s, X) = blk(int(X) + k)` in every slot. It lets a test evaluate the model. -/
  | adder (k : Nat)
deriving DecidableEq, Repr

/-- The parameters of one instance (R6 to R11), each an argument of the model. They are fixed for the machine's run: no
step writes them. -/
structure Params where
  /-- `BS`, the block size in bytes (R6). -/
  bs : Nat
  /-- `NCH`, the number of channels (R7). -/
  nch : Nat
  /-- `NCTR`, the number of counter registers (R8). -/
  nctr : Nat
  /-- `NKEYS`, the number of key slots (R9). -/
  nkeys : Nat
  /-- The `prim_key_valid` port: bit s is `keyValid(s)` (R9, R95). -/
  keyValid : BitVec 256
  /-- `PRIM_BS`, what the primitive reports on `prim_block_bytes` (R11, R95). -/
  primBs : Nat
  /-- The primitive behind the port (R10). -/
  prim : Primitive
deriving DecidableEq, Repr

/-- The ranges the spec gives the parameters (R6 to R9). `PRIM_BS` is any byte count (R11). -/
abbrev Params.WF (p : Params) : Prop :=
  (p.bs = 8 ∨ p.bs = 16) ∧ (1 ≤ p.nch ∧ p.nch ≤ 8) ∧ (1 ≤ p.nctr ∧ p.nctr ≤ 8) ∧ (1 ≤ p.nkeys ∧ p.nkeys ≤ 256)

/-- The numbers of the test configuration TCFG (R14), with the attached cipher uninterpreted: the instance that
`Machine.State.reset` is the reset state of. DESIGN CHOICE (assumption log 1): the spec leaves the parameters open. -/
def Params.tcfg : Params :=
  { bs := 8, nch := 2, nctr := 2, nkeys := 4, keyValid := 1, primBs := 8, prim := .attached }

end Sys2Proof
end

