-- ==== Sys2Proof/Machine/State.lean ====
section
/-! DEFINITION. The state of the block (10_state.md), the reasons a step can stop, and the state after reset. -/

namespace Sys2Proof.Machine

/-- The error codes 1 to 8 (R260). Code 0, "none", is the absence of one. -/
inductive ErrCode where
  | invalidKey | missingIv | invalidLength | invalidPadding
  | blockSizeMismatch | directionMismatch | illegalCommand | modeMismatch
deriving DecidableEq, Repr

/-- One request on the primitive port (R95): the operation (`prim_op`, encrypt or decrypt), the key slot (`prim_slot`)
and the input block (`prim_din`). -/
structure PrimCall where
  op : Dir
  slot : BitVec 8
  input : Block
deriving DecidableEq, Repr

/-- One bus access (R81, R95): write or read, the width in bytes, the byte offset, the write data. The port's encoding of
`bus_size` is not in the spec, so the width is a count (DESIGN CHOICE, assumption log 8, safe). -/
structure BusAccess where
  write : Bool
  bytes : Nat
  addr : BitVec 12
  wdata : Word
deriving DecidableEq, Repr

/-- What the bus slave answered to the last access (R95): nothing yet, read data, a write done, or `bus_err` (R266). -/
inductive BusResponse where
  | idle
  | read (data : Word)
  | written
  | error
deriving DecidableEq, Repr

/-- One move of the world outside the engine's data path (DESIGN CHOICE, assumption log 4, safe): a host bus access, the
moment at which the engine takes its pending step (R90), or an edge of `rst_n` (R290; `low` is its new level). -/
inductive Event where
  | access (a : BusAccess)
  | engine
  | resetPin (low : Bool)
deriving DecidableEq, Repr

/-- One channel's registers and sequencing state (R38 to R56). -/
structure Channel where
  /-- CFG.KEY_SLOT (R38). -/
  keySlot : BitVec 8
  /-- CFG.CTR_SEL (R38). -/
  ctrSel : BitVec 3
  /-- CFG.TAGLEN (R38). -/
  tagLen : BitVec 5
  /-- STATUS.DONE (R42). -/
  done : Bool
  /-- STATUS.ERR (R42). -/
  err : Bool
  /-- STATUS.OVR (R42, R263). -/
  ovr : Bool
  /-- STATUS.WIGN (R42, R264). -/
  wign : Bool
  /-- STATUS.ERRCODE (R42, R260); `none` is code 0. -/
  errCode : Option ErrCode
  /-- STATUS.OUT_LEN (R48). -/
  outLen : Nat
  /-- STATE.ST: STREAMING (R52). -/
  st : Bool
  /-- STATE.DIRV (R53). -/
  dirv : Bool
  /-- STATE.DIR (R53). -/
  dir : Dir
  /-- STATE.IVV (R55). -/
  ivv : Bool
  /-- STATE.SKV (R51). -/
  skv : Bool
  /-- STATE.CMIP (R56). -/
  cmip : Bool
  /-- STATE.BMV (R54). -/
  bmv : Bool
  /-- STATE.BMODE (R54). -/
  bmode : Mode
  /-- STATE.KPOS (R50). -/
  kpos : Nat
  /-- IRQEN.DONE_IE (R45). -/
  doneIe : Bool
  /-- IRQEN.ERR_IE (R45). -/
  errIe : Bool
  /-- IV (R46). -/
  iv : Block
  /-- DIN (R47). -/
  din : Block
  /-- DOUT (R48). -/
  dout : Block
  /-- CHAIN (R49). -/
  chain : Block
  /-- KS (R50). -/
  ks : Block
  /-- K1 (R51). -/
  k1 : Block
  /-- K2 (R51). -/
  k2 : Block
deriving DecidableEq, Repr

/-- The state: what the spec gives the block, the parameters it is built with, and the model's own record of the world
outside (assumption log 1, 4, 6, 7). -/
structure State where
  /-- The parameters (R6 to R11). No step writes them. -/
  params : Params
  /-- FATAL (R35). -/
  fatal : Bool
  /-- GBUSY (R34). -/
  gbusy : Bool
  /-- PCH (R34). -/
  pch : Nat
  /-- PCMD (R34). -/
  pcmd : Word
  /-- CNT[k] (R36). -/
  cnt : List Block
  /-- CTRV[k] (R37). -/
  ctrv : List Bool
  /-- The channels' banks (R275). -/
  chans : List Channel
  /-- The `rst_n` input is low: the block is held in reset (R290). -/
  rstLow : Bool
  /-- The model's own: the outside world's moves still to come, oldest first. -/
  events : List Event
  /-- The model's own: the bus slave's last answer. -/
  busResp : BusResponse
  /-- The model's own: the primitive calls of the last engine step, in order (R147). -/
  primLog : List PrimCall
deriving DecidableEq, Repr

/-- Nothing the spec describes stops the machine: a command error is an error completion (R143, R261) and a bus error is a
response (R266). So there is no fault, and no step answers one (assumption log 12). -/
inductive Fault where
deriving DecidableEq, Repr

/-- The only reason a step could refuse. -/
inductive Refusal where
  /-- An instruction without a meaning: raised by an arm of `exec` alone, safe. No arm raises it. -/
  | notModelled (mnemonic : String)
deriving DecidableEq, Repr

/-- Channel c after reset (R291): all zero but for CTR_SEL = c mod NCTR (R38). -/
def Channel.reset (p : Params) (c : Nat) : Channel :=
  { keySlot := 0, ctrSel := BitVec.ofNat 3 (c % p.nctr), tagLen := 0
    done := false, err := false, ovr := false, wign := false, errCode := none, outLen := 0
    st := false, dirv := false, dir := .encrypt, ivv := false, skv := false, cmip := false
    bmv := false, bmode := .ecb, kpos := 0, doneIe := false, errIe := false
    iv := zeros p.bs, din := zeros p.bs, dout := zeros p.bs, chain := zeros p.bs
    ks := zeros p.bs, k1 := zeros p.bs, k2 := zeros p.bs }

/-- The reset state of the instance with parameters `p` (R291). FATAL is `PRIM_BS ≠ BS` (R35). -/
def State.resetFor (p : Params) : State :=
  { params := p, fatal := decide (p.primBs ≠ p.bs), gbusy := false, pch := 0, pcmd := 0
    cnt := List.replicate p.nctr (zeros p.bs), ctrv := List.replicate p.nctr false
    chans := (List.range p.nch).map (Channel.reset p)
    rstLow := false, events := [], busResp := .idle, primLog := [] }

/-- The machine right after reset, for the numbers of TCFG (R14, R291; assumption log 1). -/
def State.reset : State := State.resetFor Params.tcfg

end Sys2Proof.Machine
end

