-- ==== Sys2Proof/Machine/BlockOps.lean ====
section
/-! DEFINITION. Operations on blocks and segments: the integer view (R17), byte lanes (R151), padding (R148, R149), the
counter increment (R230) and the GF(2^n) doubler (R240). -/

namespace Sys2Proof.Machine

/-- `int(X)`: byte 0 is the most significant (R17). -/
def blkInt : Block → Nat
  | [] => 0
  | x :: xs => x.toNat * 256 ^ xs.length + blkInt xs

/-- `blk(v)` for blocks of `n` bytes: the block whose integer view is `v mod 2^(8·n)` (R17). -/
def blkOf : Nat → Nat → Block
  | 0, _ => []
  | n + 1, v => BitVec.ofNat 8 (v / 256 ^ n) :: blkOf n v

/-- `A xor B`, lane by lane (R151). -/
def xorBlock (a b : Block) : Block := List.zipWith (· ^^^ ·) a b

/-- `Pad(S, n)`: the first n bytes and `BS − n` bytes of value `BS − n` (R148). -/
def pad (bs : Nat) (s : Block) (n : Nat) : Block :=
  s.take n ++ List.replicate (bs - n) (BitVec.ofNat 8 (bs - n))

/-- `Unpad(X)`: the value for DOUT and the length, or nothing when the pad is malformed (R149). Every tail byte is
compared, whichever fails (R150). -/
def unpad (bs : Nat) (x : Block) : Option (Block × Nat) :=
  let n := (x.getD (bs - 1) 0).toNat
  if (1 ≤ n ∧ n ≤ bs) ∧ (x.drop (bs - n)).all (fun b => b.toNat == n) then
    some (x.take (bs - n) ++ zeros n, bs - n)
  else none

/-- `inc(X) = blk((int(X) + 1) mod 2^(8·BS))`: the counter increment, wrapping silently (R230). -/
def inc (x : Block) : Block := blkOf x.length (blkInt x + 1)

/-- The reduction constant Rb (R241). -/
def rb (bs : Nat) : Nat := if bs = 16 then 0x87 else 0x1B

/-- `dbl(X)` (R240): shift left by one bit; if the vacated high bit was 1, XOR with Rb. -/
def dbl (x : Block) : Block :=
  let r := blkOf x.length (2 * blkInt x)
  if (x.getD 0 0).getLsbD 7 then xorBlock r (blkOf x.length (rb x.length)) else r

/-- Lane i of word w of a block: block byte `4·w + i`, and 0 at a position that does not exist (R86, R87). -/
def lane (b : Block) (w i : Nat) : Byte := b.getD (4 * w + i) 0

/-- The 32-bit word w of a block register: little-endian byte lanes (R86). -/
def readLanes (b : Block) (w : Nat) : Word := lane b w 3 ++ lane b w 2 ++ lane b w 1 ++ lane b w 0

/-- Byte i of a word: `v[8i+7 : 8i]` (R86). -/
def wordByte (v : Word) (i : Nat) : Byte := v.extractLsb' (8 * i) 8

/-- A write of the word v at word w of a block register: the lanes at positions the block has are stored, the others
change nothing (R46, R87). -/
def writeLanes (b : Block) (w : Nat) (v : Word) : Block :=
  (((b.set (4 * w) (wordByte v 0)).set (4 * w + 1) (wordByte v 1)).set (4 * w + 2) (wordByte v 2)).set
    (4 * w + 3) (wordByte v 3)

end Sys2Proof.Machine
end

