-- ==== Sys2Proof/Machine/Primitive.lean ====
section
/-! DEFINITION. The primitive port (R10, R147): E and D, as functions of the slot and the block alone. -/

namespace Sys2Proof.Machine

/-- The attached cipher's E on a block, at that block's own length. -/
def attachedEnc (slot : BitVec 8) (x : Block) : Block := (Config.cipher x.length slot ⟨x, rfl⟩).val

/-- The attached cipher's D: the inverse permutation. -/
def attachedDec (slot : BitVec 8) (x : Block) : Block := ((Config.cipher x.length slot).symm ⟨x, rfl⟩).val

/-- `E(s, X)` (R10). The adder is `blk((int(X) + k) mod 2^n)` (95_test_vectors.md section 2.1). -/
def encBlock (p : Params) (slot : BitVec 8) (x : Block) : Block :=
  match p.prim with
  | .attached => attachedEnc slot x
  | .adder k => blkOf x.length (blkInt x + k)

/-- `D(s, X)` (R10). For the adder, subtraction modulo `2^n`. -/
def decBlock (p : Params) (slot : BitVec 8) (x : Block) : Block :=
  match p.prim with
  | .attached => attachedDec slot x
  | .adder k => blkOf x.length (blkInt x + (256 ^ x.length - k % 256 ^ x.length))

/-- `keyValid(s)` (R9): bit s of the `prim_key_valid` port. -/
def keyOk (p : Params) (slot : BitVec 8) : Bool := p.keyValid.getLsbD slot.toNat

/-- The request on the port for `E(s, X)` (R95): `prim_op` = 0. -/
def encCall (slot : BitVec 8) (x : Block) : PrimCall := { op := .encrypt, slot := slot, input := x }

/-- The request on the port for `D(s, X)` (R95): `prim_op` = 1. -/
def decCall (slot : BitVec 8) (x : Block) : PrimCall := { op := .decrypt, slot := slot, input := x }

/-- `prim_op` (R95): 0 is `encrypt_block`, 1 is `decrypt_block`. -/
def primOpBit (c : PrimCall) : Bool := c.op == .decrypt

/-- How the port carries a block (R95): 8·BS bits, byte 0 in bits [8·BS−1 : 8·BS−8], so the bits are the block's integer view. -/
def packBlock (bs : Nat) (x : Block) : BitVec (8 * bs) := BitVec.ofNat (8 * bs) (blkInt x)

/-- The block that the port's bits carry (R95). -/
def unpackBlock (bs : Nat) (v : BitVec (8 * bs)) : Block := blkOf bs v.toNat

/-- The primitive's answer to a request: `encrypt_block` or `decrypt_block` of the input under the slot (R95, R147). -/
def PrimCall.answer (p : Params) (c : PrimCall) : Block :=
  match c.op with
  | .encrypt => encBlock p c.slot c.input
  | .decrypt => decBlock p c.slot c.input

/-- `prim_din` (R95): the input block on the port. -/
def primDin (bs : Nat) (c : PrimCall) : BitVec (8 * bs) := packBlock bs c.input

/-- `prim_dout` (R95): the result block on the port, in the same packing as `prim_din`. -/
def primDout (p : Params) (c : PrimCall) : BitVec (8 * p.bs) := packBlock p.bs (c.answer p)

end Sys2Proof.Machine
end

