-- ==== Sys2Proof/Machine/Ops.lean ====
section
/-! DEFINITION. The named operations over the state: access to channels and counters, the output write (R153), binding
(R146), the error completion and its acknowledgement (R143, R43), the completion of a command (R141, R142), acceptance
(R140) and reset (R290 to R293). -/

namespace Sys2Proof.Machine

/-- The bank of channel c (R275). -/
def State.chan (s : State) (c : Nat) : Channel := s.chans.getD c (Channel.reset s.params c)

/-- Replace the bank of channel c; a channel the instance does not have stays absent. -/
def State.setChan (s : State) (c : Nat) (ch : Channel) : State := { s with chans := s.chans.set c ch }

/-- The bank of the executing channel c = PCH (R141). -/
def State.cur (s : State) : Channel := s.chan s.pch

/-- Channel c is busy: GBUSY = 1 and PCH = c (R34). -/
def State.busy (s : State) (c : Nat) : Bool := s.gbusy && s.pch == c

/-- CTRV[CTR_SEL] of a channel (R37). -/
def State.ctrLoaded (s : State) (ch : Channel) : Bool := s.ctrv.getD ch.ctrSel.toNat false

/-- CNT[CTR_SEL] of a channel (R36). -/
def State.counter (s : State) (ch : Channel) : Block := s.cnt.getD ch.ctrSel.toNat (zeros s.params.bs)

/-- `WriteOut(R, n)` (R153). -/
def Channel.writeOut (ch : Channel) (bs : Nat) (r : Block) (n : Nat) : Channel :=
  { ch with dout := r.take n ++ zeros (bs - n), outLen := n }

/-- The modes whose direction is fixed at first use (R53, R144). -/
def bindsDir : Mode → Bool
  | .cbc | .cfb | .ofb => true
  | .ecb | .ctr | .cmac => false

/-- `Commit(m, dir)` (R146): bind the mode, FRESH → STREAMING, and in CBC, CFB and OFB latch the direction. -/
def Channel.commit (ch : Channel) (m : Mode) (d : Dir) : Channel :=
  { ch with
    bmv := true, bmode := m, st := true
    dirv := if bindsDir m then true else ch.dirv
    dir := if bindsDir m then d else ch.dir }

/-- TAKING AN ERROR (R143, R261): ERR ← 1, ERRCODE ← code, OUT_LEN ← 0. Nothing is saved and nothing else moves. -/
def Channel.raise (ch : Channel) (e : ErrCode) : Channel :=
  { ch with err := true, errCode := some e, outLen := 0 }

/-- THE ACKNOWLEDGEMENT (R43, R269): a bus write of v to STATUS. Each of bits 0 to 3 that is 1 clears its flag, and bit 1
clears ERRCODE with ERR. -/
def Channel.ackStatus (ch : Channel) (v : Word) : Channel :=
  { ch with
    done := ch.done && !v.getLsbD 0
    err := ch.err && !v.getLsbD 1
    errCode := if v.getLsbD 1 then none else ch.errCode
    ovr := ch.ovr && !v.getLsbD 2
    wign := ch.wign && !v.getLsbD 3 }

/-- What a command may write besides STATUS.DONE, ERR and ERRCODE (R156): its own channel and the counter file. -/
structure Writes where
  chan : Channel
  cnt : List Block
  ctrv : List Bool
deriving DecidableEq, Repr

/-- What executing a command gives: its primitive calls in order, and its writes or the error it raises. The calls of a
command that fails are kept (R143: InvalidPadding is raised after a call); its writes are not. -/
structure CmdResult where
  calls : List PrimCall
  result : Except ErrCode Writes
deriving DecidableEq, Repr

/-- `raise Err(code)` after the given primitive calls (R19). -/
def raiseErr (calls : List PrimCall) (e : ErrCode) : CmdResult := { calls := calls, result := .error e }

/-- A command that writes its own channel only. -/
def State.writesChan (s : State) (calls : List PrimCall) (ch : Channel) : CmdResult :=
  { calls := calls, result := .ok { chan := ch, cnt := s.cnt, ctrv := s.ctrv } }

/-- A command that writes its own channel and, in addition, the counter the channel selects (R184, R231). -/
def State.writesCounter (s : State) (calls : List PrimCall) (ch : Channel) (value : Block) : CmdResult :=
  { calls := calls
    result := .ok { chan := ch, cnt := s.cnt.set ch.ctrSel.toNat value, ctrv := s.ctrv } }

/-- The writes of a result: those of the command, or the error completion of the channel (R142, R143). -/
def State.outcome (s : State) (r : CmdResult) : Writes :=
  match r.result with
  | .ok w => w
  | .error e => { chan := s.cur.raise e, cnt := s.cnt, ctrv := s.ctrv }

/-- The end of the engine step (R141): the writes, then DONE ← 1 and GBUSY ← 0. The primitive calls of the step are put
on record. -/
def State.complete (s : State) (r : CmdResult) : State :=
  { s with
    gbusy := false
    cnt := (s.outcome r).cnt
    ctrv := (s.outcome r).ctrv
    chans := s.chans.set s.pch { (s.outcome r).chan with done := true }
    primLog := r.calls }

/-- The word of a command that matches no row (R115): IllegalCommand, unless FATAL is set (R141). -/
def State.illegal (s : State) : State :=
  s.complete (raiseErr [] (if s.fatal then .blockSizeMismatch else .illegalCommand))

/-- Command acceptance (R140): a write of v to CMD of channel c. While a command is pending the write is dropped and OVR
records it (R263). -/
def State.acceptCmd (s : State) (c : Nat) (v : Word) : State :=
  if s.gbusy then s.setChan c { s.chan c with ovr := true }
  else
    { s.setChan c { s.chan c with done := false, err := false, errCode := none } with
      gbusy := true, pch := c, pcmd := v }

/-- Reset (R291): every piece of the block's state takes its reset value; the parameters (R293), the level of `rst_n` and the
outside world's moves are not the block's to reset. -/
def State.doReset (s : State) : State :=
  { State.resetFor s.params with rstLow := s.rstLow, events := s.events }

/-- An edge of `rst_n` (R290): low resets the block and holds it, high releases it. -/
def State.resetEdge (s : State) (low : Bool) : State :=
  if low then { s.doReset with rstLow := true } else { s with rstLow := false }

end Sys2Proof.Machine
end

