-- ==== Sys2Proof/Machine/Operands.lean ====
section
/-! DEFINITION. The operand forms of the commands: data come from IV, DIN and the channel's state, never from the command
word (R113). -/

namespace Sys2Proof.Machine

/-- The input segment `DIN[0..LEN)` (R47). -/
def Channel.segment (ch : Channel) (len : Nat) : Block := ch.din.take len

/-- The final segment padded to a block, `Pad(DIN, LEN)` (R148, R192, R202). -/
def Channel.padded (ch : Channel) (bs len : Nat) : Block := pad bs ch.din len

/-- The CMAC chaining value Z: CHAIN inside a message, `0^BS` at its start (R245, R246). -/
def Channel.macChain (ch : Channel) (bs : Nat) : Block := if ch.cmip then ch.chain else zeros bs

/-- The last CMAC block before the subkey: the full block, or the segment with `0x80` and zeros (R246). -/
def Channel.macBlock (ch : Channel) (bs len : Nat) : Block :=
  if len = bs then ch.din else ch.segment len ++ [0x80] ++ zeros (bs - len - 1)

/-- The tag length TL: TAGLEN, and `BS` when it is 0 (R247). -/
def Channel.tagBytes (ch : Channel) (bs : Nat) : Nat := if ch.tagLen = 0 then bs else ch.tagLen.toNat

end Sys2Proof.Machine
end

