-- ==== Sys2Proof/Machine/Flags.lean ====
section
/-! DEFINITION. The words software reads (R30 to R45), the interrupt level (R267), and the checks of a data command
(R144, R145). -/

namespace Sys2Proof.Machine

/-- A field of `n` bits at bit `lo` of a register word (R18). -/
def putField (v lo n : Nat) : Word := BitVec.ofNat 32 (v % 2 ^ n * 2 ^ lo)

/-- A flag placed at bit `lo` of a register word. -/
def putBit (b : Bool) (lo : Nat) : Word := putField b.toNat lo 1

/-- The number of an error code (R260); 0 is none. -/
def errNumber : Option ErrCode → Nat
  | none => 0
  | some .invalidKey => 1
  | some .missingIv => 2
  | some .invalidLength => 3
  | some .invalidPadding => 4
  | some .blockSizeMismatch => 5
  | some .directionMismatch => 6
  | some .illegalCommand => 7
  | some .modeMismatch => 8

/-- The number of a mode (R20). -/
def modeNumber : Mode → Nat
  | .ecb => 0 | .cbc => 1 | .cfb => 2 | .ofb => 3 | .ctr => 4 | .cmac => 5

/-- The number of a direction (R20). -/
def dirBit : Dir → Bool
  | .encrypt => false | .decrypt => true

/-- ID (R30). -/
def idWord (p : Params) : Word :=
  putField p.bs 0 8 ||| putField p.nch 8 4 ||| putField p.nctr 12 4 ||| putField (p.nkeys - 1) 16 8 ||| putField 0x01 24 8

/-- The `irq` output: OR over the channels of (DONE and DONE_IE) or (ERR and ERR_IE) (R267). -/
def State.irq (s : State) : Bool := s.chans.any fun ch => (ch.done && ch.doneIe) || (ch.err && ch.errIe)

/-- GSTATUS (R31). -/
def State.gstatusWord (s : State) : Word := putBit s.gbusy 0 ||| putBit s.fatal 1 ||| putBit s.irq 2

/-- A list of bits as a number, the head least significant. -/
def bitsNat : List Bool → Nat
  | [] => 0
  | b :: bs => b.toNat + 2 * bitsNat bs

/-- CTRVALID (R32). -/
def State.ctrvalidWord (s : State) : Word := BitVec.ofNat 32 (bitsNat s.ctrv)

/-- CFG (R38). -/
def Channel.cfgWord (ch : Channel) : Word :=
  putField ch.keySlot.toNat 0 8 ||| putField ch.ctrSel.toNat 8 3 ||| putField ch.tagLen.toNat 16 5

/-- STATUS (R42); `busy` is CBUSY. -/
def Channel.statusWord (ch : Channel) (busy : Bool) : Word :=
  putBit ch.done 0 ||| putBit ch.err 1 ||| putBit ch.ovr 2 ||| putBit ch.wign 3 |||
    putField (errNumber ch.errCode) 4 4 ||| putField ch.outLen 8 5 ||| putBit busy 16

/-- STATE (R44). -/
def Channel.stateWord (ch : Channel) : Word :=
  putBit ch.st 0 ||| putBit ch.dirv 1 ||| putBit (dirBit ch.dir) 2 ||| putBit ch.ivv 3 ||| putBit ch.skv 4 |||
    putBit ch.cmip 5 ||| putBit ch.bmv 6 ||| putField (modeNumber ch.bmode) 8 3 ||| putField ch.kpos 16 4

/-- IRQEN (R45). -/
def Channel.irqenWord (ch : Channel) : Word := putBit ch.doneIe 0 ||| putBit ch.errIe 1

/-- `LenOK(op, m, len)` (R145). The pairs of OP and MODE that are no row of R114 are never asked about. -/
def lenOk (bs : Nat) (cmip : Bool) (op : DataOp) (m : Mode) (len : Nat) : Bool :=
  match op, m with
  | .enc, .ecb | .dec, .ecb | .enc, .cbc | .dec, .cbc => len == bs
  | .encf, _ => decide (len < bs)
  | .decf, _ => len == bs
  | .enc, _ | .dec, _ => decide (len ≤ bs)
  | .macu, _ => len == bs
  | .macf, _ => decide (len ≤ bs) && !(len == 0 && cmip)

/-- The IV or counter a data command needs is not loaded (R144): IVV in CBC, CFB and OFB, CTRV[CTR_SEL] in CTR. -/
def ivMissing (ch : Channel) (ctrLoaded : Bool) (m : Mode) : Bool :=
  match m with
  | .cbc | .cfb | .ofb => !ch.ivv
  | .ctr => !ctrLoaded
  | .ecb | .cmac => false

/-- The checks of a data command in their order, the first that fails deciding the code (R144, R268). -/
def dataCheck (p : Params) (ch : Channel) (ctrLoaded : Bool) (op : DataOp) (m : Mode) (len : Nat) : Option ErrCode :=
  if ch.bmv && ch.bmode != m then some .modeMismatch
  else if !keyOk p ch.keySlot then some .invalidKey
  else if ivMissing ch ctrLoaded m then some .missingIv
  else if bindsDir m && ch.dirv && ch.dir != op.dir then some .directionMismatch
  else if !lenOk p.bs ch.cmip op m len then some .invalidLength
  else none

/-- A command without checks of its own (R141, R144): FATAL, then the effect. -/
def State.runPlain (s : State) (body : Channel → CmdResult) : State :=
  s.complete (if s.fatal then raiseErr [] .blockSizeMismatch else body s.cur)

/-- A data command (R141, R144): FATAL, then the checks, then the family's effect. -/
def State.runData (s : State) (op : DataOp) (m : Mode) (len : Nat) (body : Channel → CmdResult) : State :=
  s.runPlain fun ch =>
    match dataCheck s.params ch (s.ctrLoaded ch) op m len with
    | some e => raiseErr [] e
    | none => body ch

end Sys2Proof.Machine
end

