-- ==== Sys2Proof/Machine/Bus.lean ====
section
/-! DEFINITION. The register window (20_memory.md): the address map (R85), reads, writes, and a bus access. -/

namespace Sys2Proof.Machine

/-- A register of a channel's bank, with the word index in a block register (R85). -/
inductive ChanReg where
  | cfg | cmd | status | state | irqen
  | iv (w : Nat)
  | din (w : Nat)
  | dout (w : Nat)
  | reserved
deriving DecidableEq, Repr

/-- A register of the window (R85). -/
inductive Reg where
  | id | gstatus | ctrvalid | gctrl
  | cnt (k w : Nat)
  | chan (c : Nat) (r : ChanReg)
  | reserved
deriving DecidableEq, Repr

/-- The bank map of a channel, by offset from B(c) (R85). Offsets 0x30 to 0x3F are reserved: CHAIN is not mapped (R49). -/
def chanRegAt (off : Nat) : ChanReg :=
  if off = 0x00 then .cfg
  else if off = 0x04 then .cmd
  else if off = 0x08 then .status
  else if off = 0x0C then .state
  else if off = 0x10 then .irqen
  else if 0x20 ≤ off ∧ off < 0x30 then .iv ((off - 0x20) / 4)
  else if 0x40 ≤ off ∧ off < 0x50 then .din ((off - 0x40) / 4)
  else if 0x50 ≤ off ∧ off < 0x60 then .dout ((off - 0x50) / 4)
  else .reserved

/-- The address map (R85), for an aligned offset: B(c) = 0x100 + 0x80·c for c < NCH, CNT[k] at 0x40 + 16·k for k < NCTR,
everything else reserved (R82). -/
def regAt (p : Params) (off : Nat) : Reg :=
  if off < 0x100 then
    if off = 0x000 then .id
    else if off = 0x004 then .gstatus
    else if off = 0x008 then .ctrvalid
    else if off = 0x00C then .gctrl
    else if 0x40 ≤ off ∧ off < 0x40 + 16 * p.nctr then .cnt ((off - 0x40) / 16) (off % 16 / 4)
    else .reserved
  else if (off - 0x100) / 0x80 < p.nch then .chan ((off - 0x100) / 0x80) (chanRegAt ((off - 0x100) % 0x80))
  else .reserved

/-- A read of a channel register (R38 to R48). CMD reads 0 (R41); reserved offsets read 0 (R82). -/
def State.readChan (s : State) (c : Nat) : ChanReg → Word
  | .cfg => (s.chan c).cfgWord
  | .cmd => 0
  | .status => (s.chan c).statusWord (s.busy c)
  | .state => (s.chan c).stateWord
  | .irqen => (s.chan c).irqenWord
  | .iv w => readLanes (s.chan c).iv w
  | .din w => readLanes (s.chan c).din w
  | .dout w => readLanes (s.chan c).dout w
  | .reserved => 0

/-- A read of a register (R30 to R36). GCTRL reads 0 (R33). -/
def State.readReg (s : State) : Reg → Word
  | .id => idWord s.params
  | .gstatus => s.gstatusWord
  | .ctrvalid => s.ctrvalidWord
  | .gctrl => 0
  | .cnt k w => readLanes (s.cnt.getD k []) w
  | .chan c r => s.readChan c r
  | .reserved => 0

/-- `MemRead(off, 4)` (R19): what an aligned read of the window returns. -/
def State.readWindow (s : State) (off : Nat) : Word := s.readReg (regAt s.params off)

/-- A write to a register of channel c that is ignored and recorded (R264). -/
def State.ignoreWrite (s : State) (c : Nat) : State := s.setChan c { s.chan c with wign := true }

/-- A CFG write is ignored: busy, STREAMING or an illegal field value (R39). -/
def State.cfgRefused (s : State) (c : Nat) (v : Word) : Bool :=
  s.busy c || (s.chan c).st || decide (s.params.nkeys ≤ field v 0 8) || decide (s.params.nctr ≤ field v 8 3) ||
    decide (s.params.bs < field v 16 5)

/-- A CFG write of v to channel c (R39); a change of KEY_SLOT invalidates the subkeys (R40). -/
def State.writeCfg (s : State) (c : Nat) (v : Word) : State :=
  if s.cfgRefused c v then s.ignoreWrite c
  else
    s.setChan c
      { s.chan c with
        keySlot := BitVec.ofNat 8 (field v 0 8)
        ctrSel := BitVec.ofNat 3 (field v 8 3)
        tagLen := BitVec.ofNat 5 (field v 16 5)
        skv := (s.chan c).skv && (s.chan c).keySlot == BitVec.ofNat 8 (field v 0 8) }

/-- An IRQEN write (R45), accepted while busy. -/
def Channel.setIrqen (ch : Channel) (v : Word) : Channel :=
  { ch with doneIe := v.getLsbD 0, errIe := v.getLsbD 1 }

/-- A write to a channel register (R39 to R48). Read-only and reserved offsets ignore it (R82, R83). -/
def State.writeChan (s : State) (c : Nat) (r : ChanReg) (v : Word) : State :=
  match r with
  | .cfg => s.writeCfg c v
  | .cmd => s.acceptCmd c v
  | .status => s.setChan c ((s.chan c).ackStatus v)
  | .state => s
  | .irqen => s.setChan c ((s.chan c).setIrqen v)
  | .iv w => if s.busy c then s.ignoreWrite c else s.setChan c { s.chan c with iv := writeLanes (s.chan c).iv w v }
  | .din w => if s.busy c then s.ignoreWrite c else s.setChan c { s.chan c with din := writeLanes (s.chan c).din w v }
  | .dout _ => s
  | .reserved => s

/-- A write to a register. GCTRL with bit 0 set is the soft reset (R33, R292); the rest of the global registers are
read-only (R83). -/
def State.writeReg (s : State) (r : Reg) (v : Word) : State :=
  match r with
  | .gctrl => if v.getLsbD 0 then s.doReset else s
  | .chan c r => s.writeChan c r v
  | .id => s
  | .gstatus => s
  | .ctrvalid => s
  | .cnt _ _ => s
  | .reserved => s

/-- `MemWrite(off, 4, v)` (R19): an aligned write of the window. -/
def State.writeWindow (s : State) (off : Nat) (v : Word) : State := s.writeReg (regAt s.params off) v

/-- A legal access is 32 bits wide at a multiple of 4 (R81). -/
def BusAccess.legal (a : BusAccess) : Bool := a.bytes == 4 && a.addr.toNat % 4 == 0

/-- The bus slave's answer is put on record; nothing else of the state is (R84, R266). -/
def State.respond (s : State) (r : BusResponse) : State := { s with busResp := r }

/-- `bus_rdata` (R95): the read data; a read with a bus error returns no data, and the model 0 (R266). DESIGN CHOICE (assumption
log 6), unsafe for a claim about it: the spec gives `bus_rdata` no value for a write, completed or errored, nor before any access;
here it is 0. -/
def BusResponse.rdata : BusResponse → Word
  | .read v => v
  | .idle | .written | .error => 0

/-- `bus_err` (R95, R266). -/
def BusResponse.err : BusResponse → Bool
  | .error => true
  | .idle | .written | .read _ => false

/-- A bus access taking its whole effect (R81, R88, R266). While `rst_n` is low, reads return 0 and writes are ignored
(R290). -/
def State.access (s : State) (a : BusAccess) : State :=
  if !a.legal then s.respond .error
  else if a.write then (if s.rstLow then s else s.writeWindow a.addr.toNat a.wdata).respond .written
  else s.respond (.read (if s.rstLow then 0 else s.readWindow a.addr.toNat))

end Sys2Proof.Machine
end

