-- ==== Sys2Proof/Machine/Ecb.lean ====
section
/-! DEFINITION. ECB commands (42_ecb.md). ECB reads neither CHAIN nor a counter and binds no direction. -/

namespace Sys2Proof.Machine

/-- A final block's result (R193, R203): the unpadded value of X and its length, then the binding; InvalidPadding when the
pad is malformed. `base` is the channel with the command's other writes. -/
def State.finishUnpad (s : State) (calls : List PrimCall) (base : Channel) (m : Mode) (x : Block) : CmdResult :=
  match unpad s.params.bs x with
  | none => raiseErr calls .invalidPadding
  | some (v, n) => s.writesChan calls ((base.writeOut s.params.bs v n).commit m .decrypt)

/-- ENC.ECB (R190). -/
def execEncEcb (len : Nat) (s : State) : Host.Outcome State Fault Refusal :=
  .next (s.runData .enc .ecb len fun ch =>
    let r := encBlock s.params ch.keySlot ch.din
    s.writesChan [encCall ch.keySlot ch.din] ((ch.writeOut s.params.bs r s.params.bs).commit .ecb .encrypt))

/-- DEC.ECB (R191). -/
def execDecEcb (len : Nat) (s : State) : Host.Outcome State Fault Refusal :=
  .next (s.runData .dec .ecb len fun ch =>
    let r := decBlock s.params ch.keySlot ch.din
    s.writesChan [decCall ch.keySlot ch.din] ((ch.writeOut s.params.bs r s.params.bs).commit .ecb .decrypt))

/-- ENCF.ECB (R192). -/
def execEncfEcb (len : Nat) (s : State) : Host.Outcome State Fault Refusal :=
  .next (s.runData .encf .ecb len fun ch =>
    let x := ch.padded s.params.bs len
    let r := encBlock s.params ch.keySlot x
    s.writesChan [encCall ch.keySlot x] ((ch.writeOut s.params.bs r s.params.bs).commit .ecb .encrypt))

/-- DECF.ECB (R193). -/
def execDecfEcb (len : Nat) (s : State) : Host.Outcome State Fault Refusal :=
  .next (s.runData .decf .ecb len fun ch =>
    s.finishUnpad [decCall ch.keySlot ch.din] ch .ecb (decBlock s.params ch.keySlot ch.din))

end Sys2Proof.Machine
end

