-- ==== Sys2Proof/Machine/Cbc.lean ====
section
/-! DEFINITION. CBC commands (43_cbc.md). -/

namespace Sys2Proof.Machine

/-- Encrypt a block P in the chain (R200, R202): C ← E(CHAIN xor P); CHAIN ← C; the output is C. -/
def State.chainEncrypt (s : State) (ch : Channel) (x : Block) : CmdResult :=
  let c := encBlock s.params ch.keySlot (xorBlock ch.chain x)
  s.writesChan [encCall ch.keySlot (xorBlock ch.chain x)]
    ((Channel.writeOut { ch with chain := c } s.params.bs c s.params.bs).commit .cbc .encrypt)

/-- ENC.CBC (R200). -/
def execEncCbc (len : Nat) (s : State) : Host.Outcome State Fault Refusal :=
  .next (s.runData .enc .cbc len fun ch => s.chainEncrypt ch ch.din)

/-- DEC.CBC (R201): P ← D(DIN) xor CHAIN; CHAIN ← DIN. -/
def execDecCbc (len : Nat) (s : State) : Host.Outcome State Fault Refusal :=
  .next (s.runData .dec .cbc len fun ch =>
    let x := xorBlock (decBlock s.params ch.keySlot ch.din) ch.chain
    s.writesChan [decCall ch.keySlot ch.din]
      ((Channel.writeOut { ch with chain := ch.din } s.params.bs x s.params.bs).commit .cbc .decrypt))

/-- ENCF.CBC (R202). -/
def execEncfCbc (len : Nat) (s : State) : Host.Outcome State Fault Refusal :=
  .next (s.runData .encf .cbc len fun ch => s.chainEncrypt ch (ch.padded s.params.bs len))

/-- DECF.CBC (R203): the pad is checked after the XOR with CHAIN; CHAIN ← DIN only when it is good. -/
def execDecfCbc (len : Nat) (s : State) : Host.Outcome State Fault Refusal :=
  .next (s.runData .decf .cbc len fun ch =>
    s.finishUnpad [decCall ch.keySlot ch.din] { ch with chain := ch.din } .cbc
      (xorBlock (decBlock s.params ch.keySlot ch.din) ch.chain))

end Sys2Proof.Machine
end

