-- ==== Sys2Proof/Machine/Stream.lean ====
section
/-! DEFINITION. The stream loop of CFB, OFB and CTR (R152) and its three keystream refills (R210, R220, R231). -/

namespace Sys2Proof.Machine

/-- The modes that take segments of any length (the glossary's "stream mode"). -/
inductive StreamMode where
  | cfb | ofb | ctr
deriving DecidableEq, Repr

/-- A stream mode as a mode. -/
def streamMode : StreamMode → Mode
  | .cfb => .cfb | .ofb => .ofb | .ctr => .ctr

/-- What the loop works on: KPOS, KS, CHAIN, the selected counter, the result R so far and the calls made. -/
structure StreamRegs where
  kpos : Nat
  ks : Block
  chain : Block
  ctr : Block
  out : Block
  calls : List PrimCall
deriving DecidableEq, Repr

/-- `Refill(m)` (R210, R220, R231). The counter is used first and advanced after. -/
def refill (p : Params) (slot : BitVec 8) (m : StreamMode) (r : StreamRegs) : StreamRegs :=
  match m with
  | .cfb => { r with ks := encBlock p slot r.chain, calls := r.calls ++ [encCall slot r.chain] }
  | .ofb =>
    { r with
      ks := encBlock p slot r.chain, chain := encBlock p slot r.chain
      calls := r.calls ++ [encCall slot r.chain] }
  | .ctr => { r with ks := encBlock p slot r.ctr, ctr := inc r.ctr, calls := r.calls ++ [encCall slot r.ctr] }

/-- The lazy refill: only when a byte is needed and KS has none left (R152). -/
def refillIfEmpty (p : Params) (slot : BitVec 8) (m : StreamMode) (r : StreamRegs) : StreamRegs :=
  if r.kpos = 0 then refill p slot m r else r

/-- One byte with KS filled (R152): y ← DIN[j] xor KS[KPOS]; in CFB the ciphertext byte replaces CHAIN[KPOS]. -/
def useByte (p : Params) (m : StreamMode) (d : Dir) (r : StreamRegs) (b : Byte) : StreamRegs :=
  let y := b ^^^ r.ks.getD r.kpos 0
  { r with
    out := r.out ++ [y]
    chain := if m = .cfb then r.chain.set r.kpos (if d = .encrypt then y else b) else r.chain
    kpos := (r.kpos + 1) % p.bs }

/-- One turn of the loop (R152). -/
def streamByte (p : Params) (slot : BitVec 8) (m : StreamMode) (d : Dir) (r : StreamRegs) (b : Byte) : StreamRegs :=
  useByte p m d (refillIfEmpty p slot m r) b

/-- The loop over the bytes of a segment, in increasing order (R152). -/
def streamBytes (p : Params) (slot : BitVec 8) (m : StreamMode) (d : Dir) (r : StreamRegs) (seg : Block) :
    StreamRegs :=
  seg.foldl (streamByte p slot m d) r

/-- The registers the loop starts from. -/
def State.streamStart (s : State) (ch : Channel) : StreamRegs :=
  { kpos := ch.kpos, ks := ch.ks, chain := ch.chain, ctr := s.counter ch, out := [], calls := [] }

/-- The channel after the loop: KPOS, KS, CHAIN, the output write and the binding (R152, R146). -/
def Channel.afterStream (ch : Channel) (bs : Nat) (m : StreamMode) (d : Dir) (len : Nat) (r : StreamRegs) : Channel :=
  (Channel.writeOut { ch with kpos := r.kpos, ks := r.ks, chain := r.chain } bs r.out len).commit (streamMode m) d

/-- `StreamSeg(m, dir, len)` and `Commit(m, dir)` (R152, R146). Only CTR writes the counter file (R156). -/
def State.streamSeg (s : State) (m : StreamMode) (d : Dir) (len : Nat) (ch : Channel) : CmdResult :=
  let r := streamBytes s.params ch.keySlot m d (s.streamStart ch) (ch.segment len)
  match m with
  | .ctr => s.writesCounter r.calls (ch.afterStream s.params.bs .ctr d len r) r.ctr
  | .cfb => s.writesChan r.calls (ch.afterStream s.params.bs .cfb d len r)
  | .ofb => s.writesChan r.calls (ch.afterStream s.params.bs .ofb d len r)

end Sys2Proof.Machine
end

