-- ==== Sys2Proof/Machine/Cfb.lean ====
section
/-! DEFINITION. CFB commands (44_cfb.md). -/

namespace Sys2Proof.Machine

/-- ENC.CFB (R211). -/
def execEncCfb (len : Nat) (s : State) : Host.Outcome State Fault Refusal :=
  .next (s.runData .enc .cfb len (s.streamSeg .cfb .encrypt len))

/-- DEC.CFB (R212). -/
def execDecCfb (len : Nat) (s : State) : Host.Outcome State Fault Refusal :=
  .next (s.runData .dec .cfb len (s.streamSeg .cfb .decrypt len))

end Sys2Proof.Machine
end

