-- ==== Sys2Proof/Machine/Cmac.lean ====
section
/-! DEFINITION. CMAC commands (47_cmac.md): DERIVE, MACU and MACF. -/

namespace Sys2Proof.Machine

/-- `DeriveSubkeys()` (R242): L ← E(0^BS), K1 ← dbl(L), K2 ← dbl(K1), SKV ← 1. -/
def Channel.deriveSubkeys (ch : Channel) (p : Params) : Channel :=
  let k1 := dbl (encBlock p ch.keySlot (zeros p.bs))
  { ch with k1 := k1, k2 := dbl k1, skv := true }

/-- The channel with its subkeys, derived now if SKV = 0 (R246). -/
def Channel.withSubkeys (ch : Channel) (p : Params) : Channel := if ch.skv then ch else ch.deriveSubkeys p

/-- The primitive call of the lazy derivation, if there is one (R246). -/
def Channel.subkeyCalls (ch : Channel) (p : Params) : List PrimCall :=
  if ch.skv then [] else [encCall ch.keySlot (zeros p.bs)]

/-- The last block M of a message (R246): XORed with K1 when it is full, padded and XORed with K2 otherwise. -/
def Channel.macFinal (ch : Channel) (bs len : Nat) : Block :=
  xorBlock (ch.macBlock bs len) (if len = bs then ch.k1 else ch.k2)

/-- DERIVE (R244): the key check, then the subkeys. It binds nothing and leaves DOUT. -/
def execDerive (s : State) : Host.Outcome State Fault Refusal :=
  .next (s.runPlain fun ch =>
    if keyOk s.params ch.keySlot then
      s.writesChan [encCall ch.keySlot (zeros s.params.bs)] { ch.deriveSubkeys s.params with outLen := 0 }
    else raiseErr [] .invalidKey)

/-- MACU.CMAC (R245). -/
def execMacuCmac (len : Nat) (s : State) : Host.Outcome State Fault Refusal :=
  .next (s.runData .macu .cmac len fun ch =>
    let x := xorBlock (ch.macChain s.params.bs) ch.din
    s.writesChan [encCall ch.keySlot x]
      (Channel.commit { ch with chain := encBlock s.params ch.keySlot x, cmip := true, outLen := 0 } .cmac .encrypt))

/-- MACF.CMAC (R246, R247). -/
def execMacfCmac (len : Nat) (s : State) : Host.Outcome State Fault Refusal :=
  .next (s.runData .macf .cmac len fun ch =>
    let key := ch.withSubkeys s.params
    let x := xorBlock (ch.macChain s.params.bs) (key.macFinal s.params.bs len)
    let t := encBlock s.params ch.keySlot x
    let tl := ch.tagBytes s.params.bs
    s.writesChan (ch.subkeyCalls s.params ++ [encCall ch.keySlot x])
      ((Channel.writeOut { key with chain := t, cmip := false } s.params.bs (t.take tl) tl).commit .cmac .encrypt))

end Sys2Proof.Machine
end

