-- ==== Sys2Proof/Machine/Ctr.lean ====
section
/-! DEFINITION. CTR commands (46_ctr.md). -/

namespace Sys2Proof.Machine

/-- ENC.CTR (R232). -/
def execEncCtr (len : Nat) (s : State) : Host.Outcome State Fault Refusal :=
  .next (s.runData .enc .ctr len (s.streamSeg .ctr .encrypt len))

/-- DEC.CTR (R233). -/
def execDecCtr (len : Nat) (s : State) : Host.Outcome State Fault Refusal :=
  .next (s.runData .dec .ctr len (s.streamSeg .ctr .decrypt len))

end Sys2Proof.Machine
end

