-- ==== Sys2Proof/Machine/Ofb.lean ====
section
/-! DEFINITION. OFB commands (45_ofb.md). -/

namespace Sys2Proof.Machine

/-- ENC.OFB (R221). -/
def execEncOfb (len : Nat) (s : State) : Host.Outcome State Fault Refusal :=
  .next (s.runData .enc .ofb len (s.streamSeg .ofb .encrypt len))

/-- DEC.OFB (R222). -/
def execDecOfb (len : Nat) (s : State) : Host.Outcome State Fault Refusal :=
  .next (s.runData .dec .ofb len (s.streamSeg .ofb .decrypt len))

end Sys2Proof.Machine
end

