-- ==== Sys2Proof/Machine/Setup.lean ====
section
/-! DEFINITION. Channel set-up commands (41_channel.md): LDIV and CHRST. -/

namespace Sys2Proof.Machine

/-- What every LDIV does to its channel besides the load itself (R180): bind the mode and start a new stream. -/
def Channel.newStream (ch : Channel) (m : Mode) : Channel :=
  { ch with
    bmv := true, bmode := m, st := false, dirv := false, dir := .encrypt, kpos := 0, cmip := false, outLen := 0 }

/-- `LoadIV(m)` for CBC, CFB and OFB (R180): CHAIN ← IV, IVV ← 1. -/
def Channel.loadChain (ch : Channel) (m : Mode) : Channel :=
  { ch.newStream m with chain := ch.iv, ivv := true }

/-- `LoadIV(CTR)` (R180): CNT[CTR_SEL] ← IV, CTRV[CTR_SEL] ← 1, IVV ← 0. -/
def State.loadCounter (s : State) (ch : Channel) : CmdResult :=
  { calls := []
    result := .ok
      { chan := { ch.newStream .ctr with ivv := false }
        cnt := s.cnt.set ch.ctrSel.toNat ch.iv
        ctrv := s.ctrv.set ch.ctrSel.toNat true } }

/-- `ChannelReset()` (R185). -/
def Channel.clear (ch : Channel) (bs : Nat) : Channel :=
  { ch with
    st := false, dirv := false, dir := .encrypt, ivv := false, skv := false, cmip := false
    bmv := false, bmode := .ecb, kpos := 0
    chain := zeros bs, ks := zeros bs, k1 := zeros bs, k2 := zeros bs, dout := zeros bs, outLen := 0 }

/-- LDIV.CBC (R181). -/
def execLdivCbc (s : State) : Host.Outcome State Fault Refusal :=
  .next (s.runPlain fun ch => s.writesChan [] (ch.loadChain .cbc))

/-- LDIV.CFB (R182). -/
def execLdivCfb (s : State) : Host.Outcome State Fault Refusal :=
  .next (s.runPlain fun ch => s.writesChan [] (ch.loadChain .cfb))

/-- LDIV.OFB (R183). -/
def execLdivOfb (s : State) : Host.Outcome State Fault Refusal :=
  .next (s.runPlain fun ch => s.writesChan [] (ch.loadChain .ofb))

/-- LDIV.CTR (R184). -/
def execLdivCtr (s : State) : Host.Outcome State Fault Refusal :=
  .next (s.runPlain fun ch => s.loadCounter ch)

/-- CHRST (R185). -/
def execChrst (s : State) : Host.Outcome State Fault Refusal :=
  .next (s.runPlain fun ch => s.writesChan [] (ch.clear s.params.bs))

end Sys2Proof.Machine
end

