-- ==== Sys2Proof/Machine/Dispatch.lean ====
section
/-! DEFINITION. The dispatch of a decoded command to its meaning: one engine step (R141). -/

namespace Sys2Proof.Machine

def exec (i : Instr) (s : State) : Host.Outcome State Fault Refusal :=
  match i with
  | .ldivCbc => Sys2Proof.Machine.execLdivCbc s
  | .ldivCfb => Sys2Proof.Machine.execLdivCfb s
  | .ldivOfb => Sys2Proof.Machine.execLdivOfb s
  | .ldivCtr => Sys2Proof.Machine.execLdivCtr s
  | .chrst => Sys2Proof.Machine.execChrst s
  | .encEcb len => Sys2Proof.Machine.execEncEcb len s
  | .decEcb len => Sys2Proof.Machine.execDecEcb len s
  | .encfEcb len => Sys2Proof.Machine.execEncfEcb len s
  | .decfEcb len => Sys2Proof.Machine.execDecfEcb len s
  | .encCbc len => Sys2Proof.Machine.execEncCbc len s
  | .decCbc len => Sys2Proof.Machine.execDecCbc len s
  | .encfCbc len => Sys2Proof.Machine.execEncfCbc len s
  | .decfCbc len => Sys2Proof.Machine.execDecfCbc len s
  | .encCfb len => Sys2Proof.Machine.execEncCfb len s
  | .decCfb len => Sys2Proof.Machine.execDecCfb len s
  | .encOfb len => Sys2Proof.Machine.execEncOfb len s
  | .decOfb len => Sys2Proof.Machine.execDecOfb len s
  | .encCtr len => Sys2Proof.Machine.execEncCtr len s
  | .decCtr len => Sys2Proof.Machine.execDecCtr len s
  | .derive => Sys2Proof.Machine.execDerive s
  | .macuCmac len => Sys2Proof.Machine.execMacuCmac len s
  | .macfCmac len => Sys2Proof.Machine.execMacfCmac len s

end Sys2Proof.Machine
end

