-- ==== Sys2Proof/Machine/Engine.lean ====
section
/-! DEFINITION. The engine's turn (R141) and the next move of the machine: what Step puts together. -/

namespace Sys2Proof.Machine

/-- Fetch: the pending command word, decoded (R34, R93). -/
def State.fetch (s : State) : Except Reject Instr := decode s.pcmd

/-- The engine step is enabled: a command is pending (R141) and the block is not held in reset (R290). -/
def State.engineReady (s : State) : Bool := s.gbusy && !s.rstLow

/-- The engine's turn (R141): execute the pending command, an illegal word included (R115). With nothing pending the
block idles (R307). -/
def engineTurn (s : State) : Host.Outcome State Fault Refusal :=
  if s.engineReady then
    match s.fetch with
    | .ok i => exec i s
    | .error _ => .next s.illegal
  else .next s

/-- One event of the outside world (R15). -/
def takeEvent (e : Event) (s : State) : Host.Outcome State Fault Refusal :=
  match e with
  | .access a => .next (s.access a)
  | .engine => engineTurn s
  | .resetPin low => .next (s.resetEdge low)

/-- The next move: the oldest event; with none left, the engine's turn, so that a pending command does complete (R306). -/
def nextMove (s : State) : Host.Outcome State Fault Refusal :=
  match s.events with
  | [] => engineTurn s
  | e :: rest => takeEvent e { s with events := rest }

/-- The host's placement of a command (assumption log 10): PCMD holds the word as if it had just been accepted on the
channel PCH (R140), and the next move is the engine's. -/
def State.placeCommand (s : State) (w : Word) : State :=
  { s with gbusy := true, pcmd := w, rstLow := false, events := .engine :: s.events }

end Sys2Proof.Machine
end

