-- ==== Sys2Proof/Machine/Step.lean ====
section
/-! DEFINITION. One step of the machine, and the host's placement of an instruction where the next step fetches it. -/

namespace Sys2Proof.Machine

/-- One step: one bus access, one edge of `rst_n`, or one engine step (R15, R88, R90). -/
def step (s : State) : Host.Outcome State Fault Refusal := nextMove s

/-- `s` with the word `w` placed where the next step fetches. A command is one 32-bit word, so the bits above `nbits` are
the zero bits of `w`. -/
def State.withFetchWord (s : State) (_nbits w : Nat) : State := s.placeCommand (BitVec.ofNat 32 w)

end Sys2Proof.Machine
end

