-- ==== Sys2Proof/Safety.lean ====
section
/-! DEFINITION. The terms claims are stated in: the invariant of the block (R59 and the ranges of 10_state.md), when a command
executes normally (R144), what its completion leaves (R142, R143), streams of commands, and the reference modes they are
compared with (R213, R223, R235, R248). -/

namespace Sys2Proof.Machine

/-- Every block register holds exactly BS bytes (R6). -/
abbrev Channel.Sized (p : Params) (ch : Channel) : Prop :=
  ch.iv.length = p.bs ∧ ch.din.length = p.bs ∧ ch.dout.length = p.bs ∧ ch.chain.length = p.bs ∧
    ch.ks.length = p.bs ∧ ch.k1.length = p.bs ∧ ch.k2.length = p.bs

/-- The CFG fields hold legal values (R38, R39), OUT_LEN is 0 to BS (R42), and ERR says that ERRCODE is a code (R43, R143). -/
abbrev Channel.Legal (p : Params) (ch : Channel) : Prop :=
  ch.keySlot.toNat < p.nkeys ∧ ch.ctrSel.toNat < p.nctr ∧ ch.tagLen.toNat ≤ p.bs ∧ ch.outLen ≤ p.bs ∧
    (ch.err = true ↔ ch.errCode.isSome = true)

/-- The channel is bound to CBC, CFB or OFB. -/
abbrev Channel.boundDir (ch : Channel) : Prop := ch.bmv = true ∧ bindsDir ch.bmode = true

/-- R59 (I1) to (I5). -/
abbrev Channel.Sequenced (p : Params) (ch : Channel) : Prop :=
  (ch.ivv = true → ch.boundDir) ∧
    (ch.kpos < p.bs ∧ (ch.kpos ≠ 0 → ch.bmv = true ∧ (ch.bmode = .cfb ∨ ch.bmode = .ofb ∨ ch.bmode = .ctr))) ∧
    (ch.cmip = true → ch.bmv = true ∧ ch.bmode = .cmac) ∧
    (ch.dirv = true → ch.boundDir) ∧
    (ch.st = true → ch.bmv = true)

/-- SKV = 1: K1 and K2 are those of R242 for the current KEY_SLOT (R51, R243), whose key is valid (R244, R246). -/
abbrev Channel.Subkeys (p : Params) (ch : Channel) : Prop :=
  ch.skv = true →
    keyOk p ch.keySlot = true ∧ ch.k1 = dbl (encBlock p ch.keySlot (zeros p.bs)) ∧ ch.k2 = dbl ch.k1

/-- The invariant of one channel. -/
abbrev Channel.Inv (p : Params) (ch : Channel) : Prop :=
  ch.Sized p ∧ ch.Legal p ∧ ch.Sequenced p ∧ ch.Subkeys p

/-- While `rst_n` is low the block is in its reset state (R290): all of it but the bus slave's answers. -/
abbrev State.HeldInReset (s : State) : Prop :=
  s = { State.resetFor s.params with rstLow := s.rstLow, events := s.events, busResp := s.busResp }

/-- The invariant of the block: the parameters are in range (R6 to R9), FATAL is `PRIM_BS ≠ BS` (R35), there are NCH
channels and NCTR counters of BS bytes (R7, R8, R36), every channel meets its invariant, PCH names a channel (R34), the busy
channel has DONE, ERR and ERRCODE clear (R140, R270), and the reset pin holds the block in reset (R290). -/
abbrev State.Inv (s : State) : Prop :=
  s.params.WF ∧ s.fatal = decide (s.params.primBs ≠ s.params.bs) ∧
    (s.cnt.length = s.params.nctr ∧ (∀ b ∈ s.cnt, b.length = s.params.bs) ∧ s.ctrv.length = s.params.nctr) ∧
    (s.chans.length = s.params.nch ∧ ∀ ch ∈ s.chans, ch.Inv s.params) ∧
    s.pch < s.params.nch ∧
    (s.gbusy = true → s.cur.done = false ∧ s.cur.err = false) ∧
    (s.rstLow = true → s.HeldInReset)

/-- The conditions under which a data command of mode m and direction d passes every check before the length check
(R141, R144). -/
abbrev State.Admits (s : State) (m : Mode) (d : Dir) : Prop :=
  s.fatal = false ∧ (s.cur.bmv = true → s.cur.bmode = m) ∧ keyOk s.params s.cur.keySlot = true ∧
    (bindsDir m = true → s.cur.ivv = true ∧ (s.cur.dirv = true → s.cur.dir = d)) ∧
    (m = .ctr → s.ctrv.getD s.cur.ctrSel.toNat false = true)

/-- R145, as its table has it: the legal LEN of a data command. -/
abbrev LegalLen (bs : Nat) (cmip : Bool) (op : DataOp) (m : Mode) (len : Nat) : Prop :=
  ((op = .enc ∨ op = .dec) → (m = .ecb ∨ m = .cbc) → len = bs) ∧
    ((op = .enc ∨ op = .dec) → (m = .cfb ∨ m = .ofb ∨ m = .ctr) → len ≤ bs) ∧
    (op = .encf → len < bs) ∧ (op = .decf → len = bs) ∧ (op = .macu → len = bs) ∧
    (op = .macf → len ≤ bs ∧ ¬(len = 0 ∧ cmip = true))

/-- The engine's step is the next move: a command is pending, `rst_n` is high, and the oldest event lets the engine move, or no
event is left (R90, R141). -/
abbrev State.EngineDue (s : State) : Prop :=
  s.gbusy = true ∧ s.rstLow = false ∧ (s.events = [] ∨ s.events.head? = some .engine)

/-- The state an engine move runs on: its event is used up. -/
def State.popEvent (s : State) : State := { s with events := s.events.tail }

/-- A move that resets the block: `rst_n` going low (R290), or a legal write of GCTRL with bit 0 set (R292). -/
def Event.resets : Event → Bool
  | .access a => a.legal && a.write && a.addr == 0x00C && a.wdata.getLsbD 0
  | .engine => false
  | .resetPin low => low

/-- What the engine step leaves when the command wrote `ch` to its channel and nothing else (R141, R142). -/
def State.ended (s : State) (calls : List PrimCall) (ch : Channel) : State :=
  { s with gbusy := false, chans := s.chans.set s.pch { ch with done := true }, primLog := calls }

/-- What the engine step leaves when the command raised `e` (R141, R143). -/
def State.failed (s : State) (calls : List PrimCall) (e : ErrCode) : State :=
  s.ended calls { s.cur with err := true, errCode := some e, outLen := 0 }

/-- A pending command on channel c with a segment in DIN: what the host's writes of DIN and its CMD write leave (R118, R140).
The bytes of DIN beyond the segment are zero. -/
def State.prepare (s : State) (c : Nat) (seg : Block) (i : Instr) : State :=
  { s.setChan c
      { s.chan c with
        din := seg ++ zeros (s.params.bs - seg.length), done := false, err := false, errCode := none } with
    gbusy := true, pch := c, pcmd := encode i }

/-- The valid bytes of DOUT (R48). -/
def Channel.output (ch : Channel) : Block := ch.dout.take ch.outLen

/-- One command per segment on channel c, in order: the last state and the output segments, or nothing if a step does not
answer a next state. -/
def State.runSegments (c : Nat) (mk : Nat → Instr) : State → List Block → Option (State × List Block)
  | s, [] => some (s, [])
  | s, seg :: rest =>
    match exec (mk seg.length) (s.prepare c seg (mk seg.length)) with
    | .next t => (State.runSegments c mk t rest).map fun r => (r.1, (t.chan c).output :: r.2)
    | .fault _ => none
    | .refused _ => none

/-- The stream command of a mode and a direction. -/
def streamInstr : StreamMode → Dir → Nat → Instr
  | .cfb, .encrypt => .encCfb
  | .cfb, .decrypt => .decCfb
  | .ofb, .encrypt => .encOfb
  | .ofb, .decrypt => .decOfb
  | .ctr, .encrypt => .encCtr
  | .ctr, .decrypt => .decCtr

/-- The reference stream modes, a block at a time (R213, R223, R235): `v` is the feedback block, the last block may be
partial. -/
def blockStream (p : Params) (slot : BitVec 8) (m : StreamMode) (d : Dir) : Block → List Block → List Block
  | _, [] => []
  | v, x :: rest =>
    let o := encBlock p slot v
    let y := xorBlock x o
    let next :=
      match m with
      | .cfb => if d = .encrypt then y else x
      | .ofb => o
      | .ctr => inc v
    y :: blockStream p slot m d next rest

/-- The reference CMAC tag of a message of full blocks `init` and a last segment (R248): CBC chaining from the zero block,
the last block padded if it is short and masked with its subkey. -/
def cmacTag (p : Params) (slot : BitVec 8) (init : List Block) (last : Block) : Block :=
  let k1 := dbl (encBlock p slot (zeros p.bs))
  let z := init.foldl (fun v x => encBlock p slot (xorBlock v x)) (zeros p.bs)
  let m :=
    if last.length = p.bs then xorBlock last k1
    else xorBlock (last ++ [0x80] ++ zeros (p.bs - last.length - 1)) (dbl k1)
  encBlock p slot (xorBlock z m)

/-- Everything of the state that the window must not show (R276): CHAIN, KS, K1 and K2 of every channel, blanked. -/
def State.blankSecrets (s : State) : State :=
  { s with chans := s.chans.map fun ch => { ch with chain := [], ks := [], k1 := [], k2 := [] } }

/-- The bytes of a segment of `len` bytes that the keystream bytes left in KS serve (R211): none when KPOS = 0. -/
def Channel.heldBytes (ch : Channel) (bs len : Nat) : Nat := if ch.kpos = 0 then 0 else min len (bs - ch.kpos)

/-- The pad of R149 is well-formed with length n: the last n bytes of the block all hold n. -/
abbrev PadIs (bs : Nat) (x : Block) (n : Nat) : Prop :=
  1 ≤ n ∧ n ≤ bs ∧ ∀ i < bs, bs - n ≤ i → x.getD i 0 = BitVec.ofNat 8 n

/-- The match and mask of a command's row in the opcode table (R114). -/
def opcodeRow : Instr → Word × Word
  | .ldivCbc => (0x00000011, 0xFFFFFFFF)
  | .ldivCfb => (0x00000021, 0xFFFFFFFF)
  | .ldivOfb => (0x00000031, 0xFFFFFFFF)
  | .ldivCtr => (0x00000041, 0xFFFFFFFF)
  | .chrst => (0x00000009, 0xFFFFFFFF)
  | .encEcb _ => (0x00000002, 0xFFFFE0FF)
  | .decEcb _ => (0x00000003, 0xFFFFE0FF)
  | .encfEcb _ => (0x00000004, 0xFFFFE0FF)
  | .decfEcb _ => (0x00000005, 0xFFFFE0FF)
  | .encCbc _ => (0x00000012, 0xFFFFE0FF)
  | .decCbc _ => (0x00000013, 0xFFFFE0FF)
  | .encfCbc _ => (0x00000014, 0xFFFFE0FF)
  | .decfCbc _ => (0x00000015, 0xFFFFE0FF)
  | .encCfb _ => (0x00000022, 0xFFFFE0FF)
  | .decCfb _ => (0x00000023, 0xFFFFE0FF)
  | .encOfb _ => (0x00000032, 0xFFFFE0FF)
  | .decOfb _ => (0x00000033, 0xFFFFE0FF)
  | .encCtr _ => (0x00000042, 0xFFFFE0FF)
  | .decCtr _ => (0x00000043, 0xFFFFE0FF)
  | .derive => (0x00000008, 0xFFFFFFFF)
  | .macuCmac _ => (0x00000056, 0xFFFFE0FF)
  | .macfCmac _ => (0x00000057, 0xFFFFE0FF)

/-- The 22 rows of the opcode table (R114). -/
def opcodeRows : List (Word × Word) :=
  [Instr.ldivCbc, .ldivCfb, .ldivOfb, .ldivCtr, .chrst, .encEcb 0, .decEcb 0, .encfEcb 0, .decfEcb 0, .encCbc 0,
    .decCbc 0, .encfCbc 0, .decfCbc 0, .encCfb 0, .decCfb 0, .encOfb 0, .decOfb 0, .encCtr 0, .decCtr 0, .derive,
    .macuCmac 0, .macfCmac 0].map opcodeRow

/-- Overwrite the bytes of a block from position k on (the effect of the CFB feedback on CHAIN, R152). -/
def overwrite (b : Block) (k : Nat) (xs : Block) : Block := b.take k ++ xs ++ b.drop (k + xs.length)

end Sys2Proof.Machine
end

