-- ==== Sys2Proof/Certificates/Slice0/Obligations.lean ====
section
/-! DEFINITION. The statements for the provers, from the numbered rules of spec/. Every one is about every state, so about every
instance (every value of the parameters) and every primitive that R10 allows. -/

open Sys2Proof Sys2Proof.Machine

/-! ## The encoding (30_encoding.md) -/

/-- R117 and 95 section 2.2: words written out from the encoding decode to the commands they stand for. -/
def Obligations.SampleWordsDecode : Prop :=
  decode 0x00000011 = .ok .ldivCbc ∧ decode 0x00000041 = .ok .ldivCtr ∧ decode 0x00000009 = .ok .chrst ∧
    decode 0x00000008 = .ok .derive ∧ decode 0x00000802 = .ok (.encEcb 8) ∧ decode 0x00000812 = .ok (.encCbc 8) ∧
    decode 0x00000322 = .ok (.encCfb 3) ∧ decode 0x00000633 = .ok (.decOfb 6) ∧
    decode 0x00001042 = .ok (.encCtr 16) ∧ decode 0x00000457 = .ok (.macfCmac 4)

/-- R110 to R114, R117: decoding the encoding of a well-formed command gives it back; no bit of an operand is dropped. -/
def Obligations.DecodeOfEncodeGivesTheCommand : Prop :=
  ∀ i : Instr, i.WellFormed → decode (encode i) = .ok i

/-- R110 to R114: each legal word has one meaning: the command it decodes to is well-formed and encodes to that word. -/
def Obligations.EncodeOfDecodeGivesTheWord : Prop :=
  ∀ (w : Word) (i : Instr), decode w = .ok i → i.WellFormed ∧ encode i = w

/-- R114: a word matches a row when `(w AND mask) = match`; at most one row matches; the words that decode are those that match
a row, and a decoded word matches its own row. -/
def Obligations.DecodeFollowsTheOpcodeTable : Prop :=
  ∀ w : Word,
    (∀ r ∈ opcodeRows, ∀ r' ∈ opcodeRows, w &&& r.2 = r.1 → w &&& r'.2 = r'.1 → r = r') ∧
      ((∃ i, decode w = .ok i) ↔ ∃ r ∈ opcodeRows, w &&& r.2 = r.1) ∧
      (∀ i, decode w = .ok i → opcodeRow i ∈ opcodeRows ∧ w &&& (opcodeRow i).2 = (opcodeRow i).1)

/-- R115: the illegal words are the listed ones, and executing one raises IllegalCommand unless FATAL is set, changing no state
other than the error completion's. -/
def Obligations.IllegalWordsRaiseIllegalCommand : Prop :=
  (∀ w : Word, (∃ r, decode w = .error r) ↔
      (field w 0 4 = 0x0 ∨ 0xA ≤ field w 0 4) ∨ (field w 4 3 = 6 ∨ field w 4 3 = 7) ∨
        (field w 7 1 = 1 ∨ field w 13 19 ≠ 0) ∨
        (field w 8 5 ≠ 0 ∧ (field w 0 4 = 0x1 ∨ field w 0 4 = 0x8 ∨ field w 0 4 = 0x9)) ∨
        (field w 4 3 ≠ 0 ∧ (field w 0 4 = 0x8 ∨ field w 0 4 = 0x9)) ∨
        (field w 0 4 = 0x1 ∧ (field w 4 3 = 0 ∨ field w 4 3 = 5)) ∨
        ((field w 0 4 = 0x4 ∨ field w 0 4 = 0x5) ∧
          (field w 4 3 = 2 ∨ field w 4 3 = 3 ∨ field w 4 3 = 4 ∨ field w 4 3 = 5)) ∨
        ((field w 0 4 = 0x2 ∨ field w 0 4 = 0x3) ∧ field w 4 3 = 5) ∨
        ((field w 0 4 = 0x6 ∨ field w 0 4 = 0x7) ∧ field w 4 3 ≠ 5)) ∧
    ∀ (s : State) (r : Reject), s.EngineDue → decode s.pcmd = .error r →
      step s = .next (s.popEvent.failed [] (if s.fatal then .blockSizeMismatch else .illegalCommand))

/-! ## The step -/

/-- R141: when the engine's move comes and the pending word decodes to a command, the step is that command's, on the state with
the move's event used up. -/
def Obligations.StepRunsTheDecodedCommand : Prop :=
  ∀ (s : State) (i : Instr), s.EngineDue → decode s.pcmd = .ok i → step s = exec i s.popEvent

/-- R261, R266, R307: nothing stops the machine: from every state a step answers a next state. -/
def Obligations.EveryStepAnswersANextState : Prop :=
  ∀ s : State, ∃ t, step s = .next t

/-- R90, R306 (with the queue of events of assumption log 4, and a primitive that always answers, log 5): once the events that
stand in the queue are served and the engine has had its turn, no command stays pending; and when none of those events is a reset,
which abandons a command (R292), a pending command completes on the way, with DONE. -/
def Obligations.PendingCommandCompletes : Prop :=
  ∀ s : State, s.Inv →
    (∃ t : State, Sys2Proof.core.run (s.events.length + 1) s = .next t ∧ t.gbusy = false ∧ t.events = []) ∧
      (s.gbusy = true → (∀ e ∈ s.events, e.resets = false) →
        ∃ (k : Nat) (u : State), k ≤ s.events.length + 1 ∧ Sys2Proof.core.run k s = .next u ∧ u.gbusy = false ∧
          (u.chan s.pch).done = true)

/-! ## The register window and the bus (20_memory.md, 10_state.md) -/

/-- R81, R266: an access of another width or at an offset that is not a multiple of 4 gets a bus error, has no effect on any
state, and a read returns no data (0 in the model, as R266 has it; the 0 beside an errored write is the model's own choice, log 6). -/
def Obligations.IllegalAccessGetsABusError : Prop :=
  ∀ (s : State) (a : BusAccess) (rest : List Event), s.events = .access a :: rest →
    (a.bytes ≠ 4 ∨ a.addr.toNat % 4 ≠ 0) →
    ∃ t, step s = .next t ∧ t = { s with events := rest, busResp := .error } ∧
      t.busResp.err = true ∧ t.busResp.rdata = 0 ∧ t.irq = s.irq

/-- R84, R88: a legal access takes its whole effect in one step. A read returns the window's word and changes nothing else; a
write is the window write. -/
def Obligations.LegalAccessIsServedInOneStep : Prop :=
  ∀ (s : State) (a : BusAccess) (rest : List Event), s.events = .access a :: rest →
    a.bytes = 4 → a.addr.toNat % 4 = 0 → s.rstLow = false →
    (a.write = false →
      step s = .next { s with events := rest, busResp := .read (s.readWindow a.addr.toNat) }) ∧
      (a.write = true →
        step s = .next { State.writeWindow { s with events := rest } a.addr.toNat a.wdata with busResp := .written })

/-- R82: a reserved offset reads 0 and ignores a write; those of absent channels and counters are reserved. -/
def Obligations.ReservedOffsetsReadZeroAndIgnoreWrites : Prop :=
  ∀ (s : State) (off : Nat) (v : Word), s.params.WF →
    ((0x010 ≤ off ∧ off < 0x040) ∨ (0x040 + 16 * s.params.nctr ≤ off ∧ off < 0x100) ∨
      0x100 + 0x80 * s.params.nch ≤ off ∨
      ∃ c r, c < s.params.nch ∧ off = 0x100 + 0x80 * c + r ∧ r % 4 = 0 ∧
        ((0x14 ≤ r ∧ r < 0x20) ∨ (0x30 ≤ r ∧ r < 0x40) ∨ (0x60 ≤ r ∧ r < 0x80))) →
    s.readWindow off = 0 ∧ s.writeWindow off v = s

/-- R83 (with R33, R41): a write to ID, GSTATUS, CTRVALID, CNT, STATE or DOUT is ignored and sets nothing; GCTRL and CMD read 0. -/
def Obligations.ReadOnlyRegistersIgnoreWrites : Prop :=
  ∀ (s : State) (c k w : Nat) (v : Word), s.params.WF → c < s.params.nch → k < s.params.nctr → w < 4 →
    s.writeWindow 0x000 v = s ∧ s.writeWindow 0x004 v = s ∧ s.writeWindow 0x008 v = s ∧
      s.writeWindow (0x040 + 16 * k + 4 * w) v = s ∧ s.writeWindow (0x100 + 0x80 * c + 0x0C) v = s ∧
      s.writeWindow (0x100 + 0x80 * c + 0x50 + 4 * w) v = s ∧
      s.readWindow 0x00C = 0 ∧ s.readWindow (0x100 + 0x80 * c + 0x04) = 0

/-- R39, R40: a CFG write is ignored as a whole and sets WIGN when the channel is busy or STREAMING or a field is out of range;
otherwise it sets the three fields, and a change of KEY_SLOT clears SKV. -/
def Obligations.CfgWriteIsCheckedAndAtomic : Prop :=
  ∀ (s : State) (c : Nat) (v : Word), c < s.params.nch →
    let ch := s.chan c
    s.writeWindow (0x100 + 0x80 * c) v =
      if (s.gbusy = true ∧ s.pch = c) ∨ ch.st = true ∨ s.params.nkeys ≤ field v 0 8 ∨ s.params.nctr ≤ field v 8 3 ∨
          s.params.bs < field v 16 5 then
        s.setChan c { ch with wign := true }
      else
        s.setChan c
          { ch with
            keySlot := BitVec.ofNat 8 (field v 0 8), ctrSel := BitVec.ofNat 3 (field v 8 3)
            tagLen := BitVec.ofNat 5 (field v 16 5)
            skv := if field v 0 8 = ch.keySlot.toNat then ch.skv else false }

/-- R43: a STATUS write clears DONE, ERR with ERRCODE, OVR and WIGN by ones, leaves them by zeros, and ignores every other bit,
busy or not. -/
def Obligations.StatusWriteClearsByOnes : Prop :=
  ∀ (s : State) (c : Nat) (v : Word), c < s.params.nch →
    let ch := s.chan c
    s.writeWindow (0x100 + 0x80 * c + 0x08) v =
      s.setChan c
        { ch with
          done := if v.getLsbD 0 then false else ch.done
          err := if v.getLsbD 1 then false else ch.err
          errCode := if v.getLsbD 1 then none else ch.errCode
          ovr := if v.getLsbD 2 then false else ch.ovr
          wign := if v.getLsbD 3 then false else ch.wign }

/-- R45: IRQEN keeps bits 0 and 1 of what is written, busy or not, its other bits read 0, and it is 0 at reset. -/
def Obligations.IrqenKeepsItsTwoBits : Prop :=
  ∀ (s : State) (c : Nat) (v : Word), c < s.params.nch → c < s.chans.length →
    s.writeWindow (0x100 + 0x80 * c + 0x10) v =
        s.setChan c { s.chan c with doneIe := v.getLsbD 0, errIe := v.getLsbD 1 } ∧
      (s.writeWindow (0x100 + 0x80 * c + 0x10) v).readWindow (0x100 + 0x80 * c + 0x10) = v &&& 3 ∧
      (State.resetFor s.params).readWindow (0x100 + 0x80 * c + 0x10) = 0

/-- R46, R47, R87: an IV or DIN write to the busy channel is ignored and sets WIGN; otherwise the write stores its four bytes at
the positions the block has and changes no other byte. -/
def Obligations.OperandWritesStoreTheirLanes : Prop :=
  ∀ (s : State) (c w : Nat) (v : Word), c < s.params.nch → w < 4 →
    let ch := s.chan c
    let stores := fun (old new : Block) =>
      new.length = old.length ∧ ∀ i < old.length, (new.getD i 0).toNat =
        if 4 * w ≤ i ∧ i < 4 * w + 4 then v.toNat / 256 ^ (i - 4 * w) % 256 else (old.getD i 0).toNat
    if s.gbusy = true ∧ s.pch = c then
      s.writeWindow (0x100 + 0x80 * c + 0x20 + 4 * w) v = s.setChan c { ch with wign := true } ∧
        s.writeWindow (0x100 + 0x80 * c + 0x40 + 4 * w) v = s.setChan c { ch with wign := true }
    else
      (∃ b, stores ch.iv b ∧ s.writeWindow (0x100 + 0x80 * c + 0x20 + 4 * w) v = s.setChan c { ch with iv := b }) ∧
        ∃ b, stores ch.din b ∧ s.writeWindow (0x100 + 0x80 * c + 0x40 + 4 * w) v = s.setChan c { ch with din := b }

/-- R86, R87: the word at base + 4·w of IV, DIN, DOUT and CNT[k] holds bytes 4w to 4w+3 in little-endian lanes, and 0 in the lanes
of positions the block does not have. -/
def Obligations.BlockWordsAreLittleEndianLanes : Prop :=
  ∀ (s : State) (c k w : Nat), s.params.WF → c < s.params.nch → k < s.params.nctr → w < 4 →
    let lanes := fun (x : Block) =>
      (x.getD (4 * w) 0).toNat + 256 * (x.getD (4 * w + 1) 0).toNat + 65536 * (x.getD (4 * w + 2) 0).toNat +
        16777216 * (x.getD (4 * w + 3) 0).toNat
    (s.readWindow (0x100 + 0x80 * c + 0x20 + 4 * w)).toNat = lanes (s.chan c).iv ∧
      (s.readWindow (0x100 + 0x80 * c + 0x40 + 4 * w)).toNat = lanes (s.chan c).din ∧
      (s.readWindow (0x100 + 0x80 * c + 0x50 + 4 * w)).toNat = lanes (s.chan c).dout ∧
      (s.readWindow (0x040 + 16 * k + 4 * w)).toNat = lanes (s.cnt.getD k [])

/-- R140: a CMD write is accepted when no command is pending, and dropped with OVR otherwise; a CMD write of an absent channel is
ignored. -/
def Obligations.CmdWriteIsAcceptedOrDropped : Prop :=
  ∀ (s : State) (c : Nat) (v : Word),
    let ch := s.chan c
    (c < s.params.nch → s.writeWindow (0x100 + 0x80 * c + 0x04) v =
      if s.gbusy = true then s.setChan c { ch with ovr := true }
      else
        { s.setChan c { ch with done := false, err := false, errCode := none } with
          gbusy := true, pch := c, pcmd := v }) ∧
      (s.params.nch ≤ c → s.writeWindow (0x100 + 0x80 * c + 0x04) v = s)

/-- R93, R297: while a command is pending, no bus write but the soft reset changes the pending command or what it will read: its
channel's CFG, IV, DIN and sequencing state, or a counter. -/
def Obligations.OperandsOfThePendingCommandAreFrozen : Prop :=
  ∀ (s : State) (off : Nat) (v : Word), s.Inv → s.gbusy = true → off % 4 = 0 → ¬(off = 0x00C ∧ v.getLsbD 0 = true) →
    let t := s.writeWindow off v
    t.gbusy = true ∧ t.pch = s.pch ∧ t.pcmd = s.pcmd ∧ t.fatal = s.fatal ∧ t.cnt = s.cnt ∧ t.ctrv = s.ctrv ∧
      { t.cur with ovr := s.cur.ovr, wign := s.cur.wign, doneIe := s.cur.doneIe, errIe := s.cur.errIe } = s.cur

/-- R92, R275, R140: a write to a channel's bank leaves every other channel, the counters, FATAL and the rest of the block as they
were; the pending command (GBUSY, PCH, PCMD) too, unless the write is to CMD. What GSTATUS shows follows GBUSY and irq. -/
def Obligations.BankWriteReachesItsChannelAndTheEngine : Prop :=
  ∀ (s : State) (c r : Nat) (v : Word), c < s.params.nch → r < 0x80 →
    let t := s.writeWindow (0x100 + 0x80 * c + r) v
    (∀ d, d ≠ c → t.chan d = s.chan d) ∧ t.chans.length = s.chans.length ∧ t.cnt = s.cnt ∧ t.ctrv = s.ctrv ∧
      t.fatal = s.fatal ∧ t.params = s.params ∧ t.rstLow = s.rstLow ∧ t.events = s.events ∧ t.primLog = s.primLog ∧
      t.busResp = s.busResp ∧ (r ≠ 0x04 → t.gbusy = s.gbusy ∧ t.pch = s.pch ∧ t.pcmd = s.pcmd)

/-- R30: the ID fields, for every instance, its value under TCFG (R14), and that a write to it changes nothing. -/
def Obligations.IdShowsTheParameters : Prop :=
  (∀ s : State, s.params.WF →
      field (s.readWindow 0x000) 0 8 = s.params.bs ∧ field (s.readWindow 0x000) 8 4 = s.params.nch ∧
        field (s.readWindow 0x000) 12 4 = s.params.nctr ∧ field (s.readWindow 0x000) 16 8 = s.params.nkeys - 1 ∧
        field (s.readWindow 0x000) 24 8 = 0x01 ∧ ∀ v, s.writeWindow 0x000 v = s) ∧
    (State.resetFor Params.tcfg).readWindow 0x000 = 0x01032208

/-- R31, R32, R38, R42, R44: the words of GSTATUS, CTRVALID, CFG, STATUS and STATE show their fields, and 0 in reserved bits. -/
def Obligations.StatusWordsShowTheirFields : Prop :=
  ∀ (s : State) (c : Nat), s.Inv → c < s.params.nch →
    let ch := s.chan c
    let g := s.readWindow 0x004
    let cfg := s.readWindow (0x100 + 0x80 * c)
    let status := s.readWindow (0x100 + 0x80 * c + 0x08)
    let state := s.readWindow (0x100 + 0x80 * c + 0x0C)
    (g.getLsbD 0 = s.gbusy ∧ g.getLsbD 1 = s.fatal ∧ g.getLsbD 2 = s.irq ∧ field g 3 29 = 0) ∧
      (∀ k, (s.readWindow 0x008).getLsbD k = s.ctrv.getD k false) ∧
      (field cfg 0 8 = ch.keySlot.toNat ∧ field cfg 8 3 = ch.ctrSel.toNat ∧ field cfg 16 5 = ch.tagLen.toNat ∧
        field cfg 11 5 = 0 ∧ field cfg 21 11 = 0) ∧
      (status.getLsbD 0 = ch.done ∧ status.getLsbD 1 = ch.err ∧ status.getLsbD 2 = ch.ovr ∧ status.getLsbD 3 = ch.wign ∧
        field status 4 4 = errNumber ch.errCode ∧ field status 8 5 = ch.outLen ∧
        status.getLsbD 16 = (s.gbusy && s.pch == c) ∧ field status 13 3 = 0 ∧ field status 17 15 = 0) ∧
      state.getLsbD 0 = ch.st ∧ state.getLsbD 1 = ch.dirv ∧ state.getLsbD 2 = (ch.dir == .decrypt) ∧
      state.getLsbD 3 = ch.ivv ∧ state.getLsbD 4 = ch.skv ∧ state.getLsbD 5 = ch.cmip ∧ state.getLsbD 6 = ch.bmv ∧
      field state 8 3 = modeNumber ch.bmode ∧ field state 16 4 = ch.kpos ∧ state.getLsbD 7 = false ∧
      field state 11 5 = 0 ∧ field state 20 12 = 0

/-- R267: irq is the OR over the channels of (DONE and DONE_IE) or (ERR and ERR_IE), and GSTATUS shows it. OVR and WIGN do not
enter. -/
def Obligations.IrqIsTheEnabledCauses : Prop :=
  ∀ s : State,
    (s.irq = true ↔ ∃ c < s.chans.length,
      ((s.chan c).done = true ∧ (s.chan c).doneIe = true) ∨ ((s.chan c).err = true ∧ (s.chan c).errIe = true)) ∧
      (s.readWindow 0x004).getLsbD 2 = s.irq

/-- R49, R50, R51, R276: no read and no interrupt depends on CHAIN, KS, K1 or K2 of any channel. -/
def Obligations.SecretRegistersAreUnreadable : Prop :=
  ∀ (s t : State), s.blankSecrets = t.blankSecrets → (∀ off, s.readWindow off = t.readWindow off) ∧ s.irq = t.irq

/-! ## Reset and the invariant (70_reset_and_hazards.md, R59) -/

/-- R291: what the registers read after reset, for every instance: ID, GSTATUS = FATAL << 1, CFG = (c mod NCTR) << 8, and 0
everywhere else; irq is 0. -/
def Obligations.ResetRegisterValues : Prop :=
  ∀ p : Params, p.WF →
    let s := State.resetFor p
    s.readWindow 0x000 = idWord p ∧
      (s.readWindow 0x004).toNat = (if p.primBs ≠ p.bs then 2 else 0) ∧ s.irq = false ∧
      (∀ c < p.nch, (s.readWindow (0x100 + 0x80 * c)).toNat = c % p.nctr * 256) ∧
      ∀ off, off % 4 = 0 → off ≠ 0x000 → off ≠ 0x004 → (∀ c < p.nch, off ≠ 0x100 + 0x80 * c) → s.readWindow off = 0

/-- R292, R33: a GCTRL write with bit 0 set performs the whole reset within the access and abandons a pending command; with bit 0
clear it does nothing. -/
def Obligations.SoftResetIsAWholeReset : Prop :=
  ∀ (s : State) (v : Word),
    (v.getLsbD 0 = true →
      s.writeWindow 0x00C v = { State.resetFor s.params with rstLow := s.rstLow, events := s.events } ∧
        (s.writeWindow 0x00C v).gbusy = false) ∧
      (v.getLsbD 0 = false → s.writeWindow 0x00C v = s)

/-- R290, R291: `rst_n` low resets the block; while it is low the engine does not move, reads return 0 and writes are ignored;
high releases it in the reset state. -/
def Obligations.ResetPinResetsAndHolds : Prop :=
  ∀ (s : State) (rest : List Event), s.Inv →
    (s.events = .resetPin true :: rest →
      step s = .next { State.resetFor s.params with rstLow := true, events := rest }) ∧
      (s.rstLow = true → s.events = .engine :: rest → step s = .next { s with events := rest }) ∧
      (∀ a : BusAccess, s.rstLow = true → a.bytes = 4 → a.addr.toNat % 4 = 0 → s.events = .access a :: rest →
        step s = .next { s with events := rest, busResp := if a.write then .written else .read 0 }) ∧
      (s.rstLow = true → s.events = .resetPin false :: rest →
        step s = .next { State.resetFor s.params with events := rest, busResp := s.busResp })

/-- R291, R59: the reset state of every instance meets the invariant, and so does `State.reset`. -/
def Obligations.ResetMeetsTheInvariant : Prop :=
  (∀ p : Params, p.WF → (State.resetFor p).Inv) ∧ State.reset.Inv

/-- R59 (I1) to (I6), R6, R35, R38, R243, R290: every step from a state that meets the invariant gives one that does. -/
def Obligations.EveryStepKeepsTheInvariant : Prop :=
  ∀ s t : State, s.Inv → step s = .next t → t.Inv

/-- R9, R35, R293: no step changes the parameters, and FATAL changes only to what a reset sets it to. -/
def Obligations.ParametersAreFixed : Prop :=
  ∀ s t : State, step s = .next t →
    t.params = s.params ∧ (t.fatal = s.fatal ∨ t.fatal = decide (s.params.primBs ≠ s.params.bs))

/-! ## Every command (40_dispatch.md, 60_exceptions.md) -/

/-- R265, R141: under FATAL every command ends with BlockSizeMismatch and makes no primitive call. -/
def Obligations.FatalEndsEveryCommand : Prop :=
  ∀ (i : Instr) (s : State), s.fatal = true → exec i s = .next (s.failed [] .blockSizeMismatch)

/-- R144, R145, R268: the first failing check of a data command decides the code, in the order ModeMismatch, InvalidKey, MissingIV,
DirectionMismatch, InvalidLength, with no primitive call; past them only DECF can fail, with InvalidPadding. -/
def Obligations.FirstFailingCheckDecides : Prop :=
  ∀ (i : Instr) (s : State) (op : DataOp) (m : Mode) (len : Nat), i.dataForm = some (op, m, len) → s.Inv →
    s.fatal = false →
    let ch := s.cur
    if ch.bmv = true ∧ ch.bmode ≠ m then exec i s = .next (s.failed [] .modeMismatch)
    else if keyOk s.params ch.keySlot = false then exec i s = .next (s.failed [] .invalidKey)
    else if ((m = .cbc ∨ m = .cfb ∨ m = .ofb) ∧ ch.ivv = false) ∨
        (m = .ctr ∧ s.ctrv.getD ch.ctrSel.toNat false = false) then
      exec i s = .next (s.failed [] .missingIv)
    else if (m = .cbc ∨ m = .cfb ∨ m = .ofb) ∧ ch.dirv = true ∧ ch.dir ≠ op.dir then
      exec i s = .next (s.failed [] .directionMismatch)
    else if ¬LegalLen s.params.bs ch.cmip op m len then exec i s = .next (s.failed [] .invalidLength)
    else
      ∃ t, exec i s = .next t ∧
        ((t.cur.err = ch.err ∧ t.cur.errCode = ch.errCode) ∨
          (op = .decf ∧ ∃ calls, t = s.failed calls .invalidPadding))

/-- R262, R142, R143: a command that ends with an error changes DONE, ERR, ERRCODE and OUT_LEN of its channel and nothing else, no
other channel and no counter; one that does not leaves ERR and ERRCODE clear. -/
def Obligations.ErrorsArePrecise : Prop :=
  ∀ (i : Instr) (s t : State), s.Inv → s.gbusy = true → exec i s = .next t →
    t.cur.done = true ∧
      if t.cur.err = true then
        ∃ e, t.cur.errCode = some e ∧
          t = { s with
                gbusy := false, primLog := t.primLog
                chans := s.chans.set s.pch
                  { s.cur with done := true, err := true, errCode := some e, outLen := 0 } }
      else t.cur.errCode = none

/-- R156 (the frame of every command): what is outside the command's channel and its counter is unchanged, and in its channel
everything but what R156 lists for the command. -/
def Obligations.CommandFrame : Prop :=
  ∀ (i : Instr) (s t : State), s.pch < s.chans.length → exec i s = .next t →
    (t.params = s.params ∧ t.fatal = s.fatal ∧ t.pch = s.pch ∧ t.pcmd = s.pcmd ∧ t.rstLow = s.rstLow ∧
        t.events = s.events ∧ t.busResp = s.busResp ∧ t.gbusy = false ∧ t.chans.length = s.chans.length) ∧
      (∀ c, c ≠ s.pch → t.chan c = s.chan c) ∧
      (∀ c r, c ≠ s.pch → r < 0x80 → t.readWindow (0x100 + 0x80 * c + r) = s.readWindow (0x100 + 0x80 * c + r)) ∧
      (∀ k, k ≠ s.cur.ctrSel.toNat → t.cnt.getD k [] = s.cnt.getD k [] ∧ t.ctrv.getD k false = s.ctrv.getD k false) ∧
      ((i = .ldivCtr ∨ (∃ n, i = .encCtr n) ∨ ∃ n, i = .decCtr n) ∨ t.cnt = s.cnt) ∧
      (i = .ldivCtr ∨ t.ctrv = s.ctrv) ∧
      (t.cur.keySlot = s.cur.keySlot ∧ t.cur.ctrSel = s.cur.ctrSel ∧ t.cur.tagLen = s.cur.tagLen ∧
        t.cur.ovr = s.cur.ovr ∧ t.cur.wign = s.cur.wign ∧ t.cur.doneIe = s.cur.doneIe ∧ t.cur.errIe = s.cur.errIe ∧
        t.cur.iv = s.cur.iv ∧ t.cur.din = s.cur.din) ∧
      ((i = .derive ∨ i = .chrst ∨ ∃ n, i = .macfCmac n) ∨
        t.cur.k1 = s.cur.k1 ∧ t.cur.k2 = s.cur.k2 ∧ t.cur.skv = s.cur.skv) ∧
      ((i = .chrst ∨ ∃ n, i = .encCfb n ∨ i = .decCfb n ∨ i = .encOfb n ∨ i = .decOfb n ∨ i = .encCtr n ∨ i = .decCtr n) ∨
        t.cur.ks = s.cur.ks) ∧
      ((i = .chrst ∨ i = .ldivCbc ∨ i = .ldivCfb ∨ i = .ldivOfb ∨ i = .ldivCtr ∨
          ∃ n, i = .encCfb n ∨ i = .decCfb n ∨ i = .encOfb n ∨ i = .decOfb n ∨ i = .encCtr n ∨ i = .decCtr n) ∨
        t.cur.kpos = s.cur.kpos) ∧
      ((i = .derive ∨ i = .ldivCtr ∨ ∃ n, i = .encEcb n ∨ i = .decEcb n ∨ i = .encfEcb n ∨ i = .decfEcb n ∨ i = .encCtr n ∨
          i = .decCtr n) → t.cur.chain = s.cur.chain) ∧
      ((i = .derive ∨ i = .ldivCbc ∨ i = .ldivCfb ∨ i = .ldivOfb ∨ i = .ldivCtr ∨ ∃ n, i = .macuCmac n) →
        t.cur.dout = s.cur.dout) ∧
      ((i = .derive ∨ i.dataForm.isSome = true) → t.cur.ivv = s.cur.ivv) ∧
      ((i = .derive ∨ ∃ op m n, i.dataForm = some (op, m, n) ∧ m ≠ .cmac) → t.cur.cmip = s.cur.cmip) ∧
      ((i = .derive ∨ ∃ op m n, i.dataForm = some (op, m, n) ∧ bindsDir m = false) →
        t.cur.dirv = s.cur.dirv ∧ t.cur.dir = s.cur.dir) ∧
      (i = .derive → t.cur.st = s.cur.st ∧ t.cur.bmv = s.cur.bmv ∧ t.cur.bmode = s.cur.bmode)

/-- R146: a successful data command binds the mode and sets ST, and in CBC, CFB and OFB latches its direction, LEN 0 included; no
other command sets ST or DIRV. -/
def Obligations.OnlySuccessfulDataCommandsBind : Prop :=
  ∀ (i : Instr) (s t : State), s.Inv → s.gbusy = true → exec i s = .next t →
    (∀ op m len, i.dataForm = some (op, m, len) → t.cur.err = false →
      t.cur.bmv = true ∧ t.cur.bmode = m ∧ t.cur.st = true ∧
        if m = .cbc ∨ m = .cfb ∨ m = .ofb then t.cur.dirv = true ∧ t.cur.dir = op.dir
        else t.cur.dirv = s.cur.dirv ∧ t.cur.dir = s.cur.dir) ∧
      (i.dataForm = none ∨ t.cur.err = true →
        (t.cur.st = true → s.cur.st = true) ∧ (t.cur.dirv = true → s.cur.dirv = true))

/-- R147, R95: the engine calls the primitive only past every check up to InvalidKey, with the channel's slot and a block of BS
bytes; only DEC and DECF in ECB and CBC call D; at most two calls, two only in MACF. On the port `prim_op` is 1 for D alone,
`prim_din` carries the input and `prim_dout` the answer, byte i of each in bits [8·(BS−1−i)+7 : 8·(BS−1−i)]. -/
def Obligations.PrimitivePortContract : Prop :=
  ∀ (i : Instr) (s t : State), s.Inv → exec i s = .next t →
    (∀ call ∈ t.primLog,
      s.fatal = false ∧ keyOk s.params s.cur.keySlot = true ∧ call.slot = s.cur.keySlot ∧
        call.input.length = s.params.bs ∧
        (call.op = .decrypt → ∃ n, i = .decEcb n ∨ i = .decfEcb n ∨ i = .decCbc n ∨ i = .decfCbc n) ∧
        (primOpBit call = true ↔ call.op = .decrypt) ∧ (call.answer s.params).length = s.params.bs ∧
        ∀ k < s.params.bs,
          (primDin s.params.bs call).extractLsb' (8 * (s.params.bs - 1 - k)) 8 = call.input.getD k 0 ∧
            (primDout s.params call).extractLsb' (8 * (s.params.bs - 1 - k)) 8 = (call.answer s.params).getD k 0) ∧
      (t.primLog.length ≤ 1 ∨ (t.primLog.length = 2 ∧ ∃ n, i = .macfCmac n))

/-! ## Channel set-up (41_channel.md) -/

/-- R180 to R183: LDIV in CBC, CFB and OFB. -/
def Obligations.LdivLoadsTheChain : Prop :=
  ∀ s : State, s.fatal = false →
    let loaded := fun (m : Mode) =>
      s.ended []
        { s.cur with
          chain := s.cur.iv, ivv := true, bmv := true, bmode := m, st := false, dirv := false, dir := .encrypt
          kpos := 0, cmip := false, outLen := 0 }
    exec .ldivCbc s = .next (loaded .cbc) ∧ exec .ldivCfb s = .next (loaded .cfb) ∧
      exec .ldivOfb s = .next (loaded .ofb)

/-- R180, R184: LDIV.CTR loads the selected counter and marks it loaded. -/
def Obligations.LdivCtrLoadsTheSelectedCounter : Prop :=
  ∀ s : State, s.fatal = false → s.cur.ctrSel.toNat < s.cnt.length → s.cur.ctrSel.toNat < s.ctrv.length →
    ∃ t, exec .ldivCtr s = .next t ∧
      t = { s.ended []
              { s.cur with
                ivv := false, bmv := true, bmode := .ctr, st := false, dirv := false, dir := .encrypt
                kpos := 0, cmip := false, outLen := 0 } with
            cnt := t.cnt, ctrv := t.ctrv } ∧
      t.cnt.getD s.cur.ctrSel.toNat [] = s.cur.iv ∧ t.ctrv.getD s.cur.ctrSel.toNat false = true ∧
      (∀ k, k ≠ s.cur.ctrSel.toNat → t.cnt.getD k [] = s.cnt.getD k [] ∧ t.ctrv.getD k false = s.ctrv.getD k false)

/-- R185: CHRST zeroises the channel's context and keeps CFG, IV, DIN, IRQEN, OVR, WIGN and the counters. -/
def Obligations.ChrstClearsTheContext : Prop :=
  ∀ s : State, s.fatal = false →
    exec .chrst s = .next
      (s.ended []
        { s.cur with
          st := false, dirv := false, dir := .encrypt, ivv := false, skv := false, cmip := false
          bmv := false, bmode := .ecb, kpos := 0, outLen := 0
          chain := zeros s.params.bs, ks := zeros s.params.bs, k1 := zeros s.params.bs, k2 := zeros s.params.bs
          dout := zeros s.params.bs })

/-! ## ECB (42_ecb.md) -/

/-- R190, R191: ENC.ECB and DEC.ECB of one full block. -/
def Obligations.EcbBlockCommands : Prop :=
  ∀ s : State, s.Inv → s.Admits .ecb .encrypt →
    let ch := s.cur
    let bound := fun (out : Block) => { ch with dout := out, outLen := s.params.bs, bmv := true, bmode := .ecb, st := true }
    exec (.encEcb s.params.bs) s =
        .next (s.ended [⟨.encrypt, ch.keySlot, ch.din⟩] (bound (encBlock s.params ch.keySlot ch.din))) ∧
      exec (.decEcb s.params.bs) s =
        .next (s.ended [⟨.decrypt, ch.keySlot, ch.din⟩] (bound (decBlock s.params ch.keySlot ch.din)))

/-- R192, R148: ENCF.ECB pads the segment to a block and encrypts it. -/
def Obligations.EncfEcbPadsAndEncrypts : Prop :=
  ∀ (s : State) (len : Nat), s.Inv → s.Admits .ecb .encrypt → len < s.params.bs →
    let ch := s.cur
    let x := ch.din.take len ++ List.replicate (s.params.bs - len) (BitVec.ofNat 8 (s.params.bs - len))
    exec (.encfEcb len) s =
      .next (s.ended [⟨.encrypt, ch.keySlot, x⟩]
        { ch with
          dout := encBlock s.params ch.keySlot x, outLen := s.params.bs, bmv := true, bmode := .ecb, st := true })

/-- R193, R149, R150: DECF.ECB unpads, or ends with InvalidPadding and commits nothing; either way with one D call. -/
def Obligations.DecfEcbUnpadsOrRefuses : Prop :=
  ∀ s : State, s.Inv → s.Admits .ecb .decrypt →
    let ch := s.cur
    let x := decBlock s.params ch.keySlot ch.din
    (∀ n, PadIs s.params.bs x n →
      exec (.decfEcb s.params.bs) s =
        .next (s.ended [⟨.decrypt, ch.keySlot, ch.din⟩]
          { ch with
            dout := x.take (s.params.bs - n) ++ zeros n, outLen := s.params.bs - n
            bmv := true, bmode := .ecb, st := true })) ∧
      ((¬∃ n, PadIs s.params.bs x n) →
        exec (.decfEcb s.params.bs) s = .next (s.failed [⟨.decrypt, ch.keySlot, ch.din⟩] .invalidPadding))

/-- R194, with R148, R149 and R10: on one channel, decrypting what was encrypted gives the segment back, for a full block and for
a padded final segment of every legal length. -/
def Obligations.EcbRoundTrip : Prop :=
  ∀ (s : State) (c : Nat) (seg : Block), s.Inv → c < s.params.nch → State.Admits { s with pch := c } .ecb .encrypt →
    (seg.length = s.params.bs →
      ∃ t out u, State.runSegments c .encEcb s [seg] = some (t, [out]) ∧
        State.runSegments c .decEcb t [out] = some (u, [seg])) ∧
      (seg.length < s.params.bs →
        ∃ t out u, State.runSegments c .encfEcb s [seg] = some (t, [out]) ∧
          State.runSegments c .decfEcb t [out] = some (u, [seg]))

/-! ## CBC (43_cbc.md) -/

/-- R200, R202: ENC.CBC and ENCF.CBC encrypt the block, or the padded segment, XORed with CHAIN; CHAIN and DOUT take it. -/
def Obligations.CbcEncryptCommands : Prop :=
  ∀ s : State, s.Inv → s.Admits .cbc .encrypt →
    let ch := s.cur
    let ends := fun (x : Block) =>
      let c := encBlock s.params ch.keySlot (xorBlock ch.chain x)
      s.ended [⟨.encrypt, ch.keySlot, xorBlock ch.chain x⟩]
        { ch with
          chain := c, dout := c, outLen := s.params.bs, bmv := true, bmode := .cbc, st := true, dirv := true
          dir := .encrypt }
    exec (.encCbc s.params.bs) s = .next (ends ch.din) ∧
      ∀ len, len < s.params.bs →
        exec (.encfCbc len) s =
          .next (ends (ch.din.take len ++
            List.replicate (s.params.bs - len) (BitVec.ofNat 8 (s.params.bs - len))))

/-- R201: DEC.CBC: DOUT is D(DIN) xor CHAIN, and CHAIN takes DIN. -/
def Obligations.DecCbcDecryptsInTheChain : Prop :=
  ∀ s : State, s.Inv → s.Admits .cbc .decrypt →
    let ch := s.cur
    exec (.decCbc s.params.bs) s =
      .next (s.ended [⟨.decrypt, ch.keySlot, ch.din⟩]
        { ch with
          chain := ch.din, dout := xorBlock (decBlock s.params ch.keySlot ch.din) ch.chain, outLen := s.params.bs
          bmv := true, bmode := .cbc, st := true, dirv := true, dir := .decrypt })

/-- R203, R149, R150: DECF.CBC checks the pad after the XOR with CHAIN; on InvalidPadding CHAIN and the binding stay. -/
def Obligations.DecfCbcUnpadsOrRefuses : Prop :=
  ∀ s : State, s.Inv → s.Admits .cbc .decrypt →
    let ch := s.cur
    let x := xorBlock (decBlock s.params ch.keySlot ch.din) ch.chain
    (∀ n, PadIs s.params.bs x n →
      exec (.decfCbc s.params.bs) s =
        .next (s.ended [⟨.decrypt, ch.keySlot, ch.din⟩]
          { ch with
            chain := ch.din, dout := x.take (s.params.bs - n) ++ zeros n, outLen := s.params.bs - n
            bmv := true, bmode := .cbc, st := true, dirv := true, dir := .decrypt })) ∧
      ((¬∃ n, PadIs s.params.bs x n) →
        exec (.decfCbc s.params.bs) s = .next (s.failed [⟨.decrypt, ch.keySlot, ch.din⟩] .invalidPadding))

/-- R204: decrypting a CBC stream block by block from the same chain and key, with DEC.CBC and then DECF.CBC, returns the
plaintext, for every list of blocks and every final segment of 0 to BS − 1 bytes. -/
def Obligations.CbcStreamRoundTrip : Prop :=
  ∀ (s s' : State) (c c' : Nat) (segs : List Block) (fin : Block), s.Inv → s'.Inv → s.params = s'.params →
    c < s.params.nch → c' < s'.params.nch → (s.chan c).keySlot = (s'.chan c').keySlot →
    (s.chan c).chain = (s'.chan c').chain → State.Admits { s with pch := c } .cbc .encrypt →
    State.Admits { s' with pch := c' } .cbc .decrypt → (∀ seg ∈ segs, seg.length = s.params.bs) → fin.length < s.params.bs →
    ∃ t outs t' out u u', State.runSegments c .encCbc s segs = some (t, outs) ∧
      State.runSegments c .encfCbc t [fin] = some (t', [out]) ∧
      State.runSegments c' .decCbc s' outs = some (u, segs) ∧ State.runSegments c' .decfCbc u [out] = some (u', [fin])

/-- R204 (avalanche): two CBC messages that differ in one block, or in the final segment alone, have the same ciphertext before it
and a different ciphertext block at it and at every later place, the final block included. -/
def Obligations.CbcChangeReachesTheLaterBlocksOnly : Prop :=
  ∀ (s : State) (c : Nat), s.Inv → c < s.params.nch → State.Admits { s with pch := c } .cbc .encrypt →
    let message := fun (segs : List Block) (fin : Block) (outs : List Block) (out : Block) =>
      ∃ t t', State.runSegments c .encCbc s segs = some (t, outs) ∧ State.runSegments c .encfCbc t [fin] = some (t', [out])
    (∀ (pre post : List Block) (x y fin : Block), (∀ seg ∈ pre ++ post, seg.length = s.params.bs) →
      x.length = s.params.bs → y.length = s.params.bs → x ≠ y → fin.length < s.params.bs →
      ∃ outs out outs' out', message (pre ++ x :: post) fin outs out ∧ message (pre ++ y :: post) fin outs' out' ∧
        outs.length = outs'.length ∧ outs.take pre.length = outs'.take pre.length ∧
        (∀ j, pre.length ≤ j → j < outs.length → outs.getD j [] ≠ outs'.getD j []) ∧ out ≠ out') ∧
      (∀ (segs : List Block) (fin fin' : Block), (∀ seg ∈ segs, seg.length = s.params.bs) → fin.length < s.params.bs →
        fin'.length < s.params.bs → fin ≠ fin' →
        ∃ outs out out', message segs fin outs out ∧ message segs fin' outs out' ∧ out ≠ out')

/-! ## CFB, OFB and CTR (44_cfb.md, 45_ofb.md, 46_ctr.md) -/

/-- R152, R210 to R212: a CFB segment uses the keystream bytes KS still holds, replaces CHAIN by the ciphertext bytes, and refills
at most once, when KS runs out and a byte is still needed. -/
def Obligations.CfbSegmentCommands : Prop :=
  ∀ (s : State) (d : Dir) (len : Nat), s.Inv → s.Admits .cfb d → len ≤ s.params.bs →
    let ch := s.cur
    let i : Instr := match d with | .encrypt => .encCfb len | .decrypt => .decCfb len
    let r := ch.heldBytes s.params.bs len
    let in1 := ch.din.take r
    let in2 := (ch.din.take len).drop r
    let out1 := xorBlock in1 (ch.ks.drop ch.kpos)
    let fb := overwrite ch.chain ch.kpos (match d with | .encrypt => out1 | .decrypt => in1)
    let ks := encBlock s.params ch.keySlot fb
    let out2 := xorBlock in2 ks
    let bound :=
      { ch with
        kpos := (ch.kpos + len) % s.params.bs, outLen := len, bmv := true, bmode := .cfb, st := true
        dirv := true, dir := d }
    exec i s =
      if r = len then .next (s.ended [] { bound with chain := fb, dout := out1 ++ zeros (s.params.bs - len) })
      else
        .next (s.ended [⟨.encrypt, ch.keySlot, fb⟩]
          { bound with
            ks := ks, chain := overwrite fb 0 (match d with | .encrypt => out2 | .decrypt => in2)
            dout := out1 ++ out2 ++ zeros (s.params.bs - len) })

/-- R152, R220 to R222: an OFB segment, in either direction the same data path: the refill's keystream becomes the chain. -/
def Obligations.OfbSegmentCommands : Prop :=
  ∀ (s : State) (d : Dir) (len : Nat), s.Inv → s.Admits .ofb d → len ≤ s.params.bs →
    let ch := s.cur
    let i : Instr := match d with | .encrypt => .encOfb len | .decrypt => .decOfb len
    let r := ch.heldBytes s.params.bs len
    let out1 := xorBlock (ch.din.take r) (ch.ks.drop ch.kpos)
    let ks := encBlock s.params ch.keySlot ch.chain
    let out2 := xorBlock ((ch.din.take len).drop r) ks
    let bound :=
      { ch with
        kpos := (ch.kpos + len) % s.params.bs, outLen := len, bmv := true, bmode := .ofb, st := true
        dirv := true, dir := d }
    exec i s =
      if r = len then .next (s.ended [] { bound with dout := out1 ++ zeros (s.params.bs - len) })
      else
        .next (s.ended [⟨.encrypt, ch.keySlot, ch.chain⟩]
          { bound with ks := ks, chain := ks, dout := out1 ++ out2 ++ zeros (s.params.bs - len) })

/-- R152, R231 to R233: a CTR segment, in either direction the same data path: the counter is used and then advanced once per
refill, and no direction is bound. -/
def Obligations.CtrSegmentCommands : Prop :=
  ∀ (s : State) (d : Dir) (len : Nat), s.Inv → s.Admits .ctr d → len ≤ s.params.bs →
    let ch := s.cur
    let i : Instr := match d with | .encrypt => .encCtr len | .decrypt => .decCtr len
    let k := ch.ctrSel.toNat
    let v := s.cnt.getD k []
    let r := ch.heldBytes s.params.bs len
    let out1 := xorBlock (ch.din.take r) (ch.ks.drop ch.kpos)
    let ks := encBlock s.params ch.keySlot v
    let out2 := xorBlock ((ch.din.take len).drop r) ks
    let bound :=
      { ch with kpos := (ch.kpos + len) % s.params.bs, outLen := len, bmv := true, bmode := .ctr, st := true }
    exec i s =
      if r = len then .next (s.ended [] { bound with dout := out1 ++ zeros (s.params.bs - len) })
      else
        .next { s.ended [⟨.encrypt, ch.keySlot, v⟩]
                  { bound with ks := ks, dout := out1 ++ out2 ++ zeros (s.params.bs - len) } with
                cnt := s.cnt.set k (blkOf s.params.bs (blkInt v + 1)) }

/-- R213, R223, R235: the output of a stream and the stream state it ends in are the same for every split of the message into
segments of 0 to BS bytes. -/
def Obligations.StreamOutputIgnoresTheSplit : Prop :=
  ∀ (m : StreamMode) (d : Dir) (s : State) (c : Nat) (segs segs' : List Block), s.Inv → c < s.params.nch →
    State.Admits { s with pch := c } (streamMode m) d → (∀ seg ∈ segs, seg.length ≤ s.params.bs) →
    (∀ seg ∈ segs', seg.length ≤ s.params.bs) → segs.flatten = segs'.flatten →
    ∃ t outs t' outs', State.runSegments c (streamInstr m d) s segs = some (t, outs) ∧
      State.runSegments c (streamInstr m d) s segs' = some (t', outs') ∧ outs.flatten = outs'.flatten ∧
      (t.chan c).chain = (t'.chan c).chain ∧ (t.chan c).ks = (t'.chan c).ks ∧
      (t.chan c).kpos = (t'.chan c).kpos ∧ t.cnt = t'.cnt

/-- R213, R223, R235: from KPOS = 0, a stream in any split equals the mode run a full block at a time: `C_b = M_b xor E(C_{b-1})` in
CFB, `M xor (O_0 ‖ O_1 ‖ …)` in OFB, and `E(inc^k(c0))` for block k in CTR. -/
def Obligations.StreamEqualsTheBlockwiseMode : Prop :=
  ∀ (m : StreamMode) (d : Dir) (s : State) (c : Nat) (segs blocks : List Block), s.Inv → c < s.params.nch →
    State.Admits { s with pch := c } (streamMode m) d → (s.chan c).kpos = 0 →
    (∀ seg ∈ segs, seg.length ≤ s.params.bs) → (∀ b ∈ blocks, b.length ≤ s.params.bs) →
    (∀ b ∈ blocks.dropLast, b.length = s.params.bs) → segs.flatten = blocks.flatten →
    let v := match m with
      | .cfb => (s.chan c).chain
      | .ofb => (s.chan c).chain
      | .ctr => s.cnt.getD (s.chan c).ctrSel.toNat []
    ∃ t outs, State.runSegments c (streamInstr m d) s segs = some (t, outs) ∧
      outs.flatten = (blockStream s.params (s.chan c).keySlot m d v blocks).flatten

/-! ## CMAC (47_cmac.md) -/

/-- R244, R242: DERIVE derives the subkeys with one E call and binds nothing; with an invalid key it ends with InvalidKey. -/
def Obligations.DeriveComputesTheSubkeys : Prop :=
  ∀ s : State, s.fatal = false →
    let ch := s.cur
    let l := encBlock s.params ch.keySlot (zeros s.params.bs)
    (keyOk s.params ch.keySlot = true →
      exec .derive s = .next (s.ended [⟨.encrypt, ch.keySlot, zeros s.params.bs⟩]
        { ch with k1 := dbl l, k2 := dbl (dbl l), skv := true, outLen := 0 })) ∧
      (keyOk s.params ch.keySlot = false → exec .derive s = .next (s.failed [] .invalidKey))

/-- R245: MACU.CMAC absorbs one full block, from the zero block when no message is open. -/
def Obligations.MacuAbsorbsABlock : Prop :=
  ∀ s : State, s.Inv → s.Admits .cmac .encrypt →
    let ch := s.cur
    let x := xorBlock (if ch.cmip = true then ch.chain else zeros s.params.bs) ch.din
    exec (.macuCmac s.params.bs) s =
      .next (s.ended [⟨.encrypt, ch.keySlot, x⟩]
        { ch with
          chain := encBlock s.params ch.keySlot x, cmip := true, outLen := 0, bmv := true, bmode := .cmac, st := true })

/-- R246, R247: MACF.CMAC derives lazily, masks the last block with its subkey, and outputs the leftmost TL bytes of the tag. -/
def Obligations.MacfProducesTheTag : Prop :=
  ∀ (s : State) (len : Nat), s.Inv → s.Admits .cmac .encrypt → len ≤ s.params.bs → ¬(len = 0 ∧ s.cur.cmip = true) →
    let ch := s.cur
    let bs := s.params.bs
    let l := encBlock s.params ch.keySlot (zeros bs)
    let k1 := if ch.skv = true then ch.k1 else dbl l
    let k2 := if ch.skv = true then ch.k2 else dbl (dbl l)
    let z := if ch.cmip = true then ch.chain else zeros bs
    let m :=
      if len = bs then xorBlock ch.din k1 else xorBlock (ch.din.take len ++ [0x80] ++ zeros (bs - len - 1)) k2
    let tag := encBlock s.params ch.keySlot (xorBlock z m)
    let tl := if ch.tagLen.toNat = 0 then bs else ch.tagLen.toNat
    exec (.macfCmac len) s =
      .next (s.ended
        ((if ch.skv = true then [] else [⟨.encrypt, ch.keySlot, zeros bs⟩]) ++ [⟨.encrypt, ch.keySlot, xorBlock z m⟩])
        { ch with
          k1 := k1, k2 := k2, skv := true, chain := tag, cmip := false, dout := tag.take tl ++ zeros (bs - tl)
          outLen := tl, bmv := true, bmode := .cmac, st := true })

/-- R248: from CMIP = 0 the tag of a message depends on the slot's key, the message and TAGLEN alone: it is the reference CMAC of
the message, truncated, whatever else the channel holds. -/
def Obligations.CmacTagIsAFunctionOfTheMessage : Prop :=
  ∀ (s : State) (c : Nat) (init : List Block) (last : Block), s.Inv → c < s.params.nch →
    State.Admits { s with pch := c } .cmac .encrypt → (s.chan c).cmip = false →
    (∀ b ∈ init, b.length = s.params.bs) → last.length ≤ s.params.bs → (init ≠ [] → last ≠ []) →
    ∃ t outs u, State.runSegments c .macuCmac s init = some (t, outs) ∧
      State.runSegments c .macfCmac t [last] =
        some (u, [(cmacTag s.params (s.chan c).keySlot init last).take
          (if (s.chan c).tagLen.toNat = 0 then s.params.bs else (s.chan c).tagLen.toNat)])

/-! ## The block operations -/

/-- R230, R17: the increment adds one modulo `2^(8·BS)` on the big-endian integer view, wrapping silently. -/
def Obligations.IncrementAddsOneModuloTheBlock : Prop :=
  (∀ x : Block, (inc x).length = x.length ∧ blkInt (inc x) = (blkInt x + 1) % 2 ^ (8 * x.length)) ∧
    (∀ n, inc (List.replicate n 0xFF) = zeros n) ∧
    inc [0, 0, 0, 0, 0, 0, 0, 0xFF] = [0, 0, 0, 0, 0, 0, 1, 0]

/-- R240, R241: doubling is a left shift by one of the integer view, XORed with Rb when bit 7 of byte 0 was 1; Rb is 0x1B for 8 bytes
and 0x87 for 16. -/
def Obligations.DoublingShiftsAndReduces : Prop :=
  ∀ x : Block, x.length = 8 ∨ x.length = 16 →
    (dbl x).length = x.length ∧
      blkInt (dbl x) =
        if (x.getD 0 0).getLsbD 7 = true then
          (2 * blkInt x % 2 ^ (8 * x.length)) ^^^ (if x.length = 8 then 0x1B else 0x87)
        else 2 * blkInt x % 2 ^ (8 * x.length)

/-- R148, R149: unpadding a padded segment gives the segment and its length, for every legal length. -/
def Obligations.UnpadInvertsPad : Prop :=
  ∀ (bs : Nat) (x : Block) (n : Nat), bs = 8 ∨ bs = 16 → n < bs → n ≤ x.length →
    (pad bs x n).length = bs ∧ unpad bs (pad bs x n) = some (x.take n ++ zeros (bs - n), n)
end

