-- ==== Sys2Proof/Laws/Blocks.lean ====
section
/-! SUPPORT. What the block operations do: lengths, the integer view and its inverse, XOR, and the primitive's two laws. -/

namespace Sys2Proof.Machine

@[simp] theorem length_blkOf (n v : Nat) : (blkOf n v).length = n := by
  induction n generalizing v with
  | zero => rfl
  | succ n ih => simp [blkOf, ih]

@[simp] theorem length_xorBlock (a b : Block) : (xorBlock a b).length = min a.length b.length := by
  simp [xorBlock]

@[simp] theorem length_inc (x : Block) : (inc x).length = x.length := by simp [inc]

@[simp] theorem length_dbl (x : Block) : (dbl x).length = x.length := by
  unfold dbl; dsimp only; split <;> simp

@[simp] theorem length_writeLanes (b : Block) (w : Nat) (v : Word) : (writeLanes b w v).length = b.length := by
  simp [writeLanes]

@[simp] theorem length_overwrite (b : Block) (k : Nat) (xs : Block) (h : k + xs.length ≤ b.length) :
    (overwrite b k xs).length = b.length := by
  simp [overwrite]; omega

theorem length_pad (bs : Nat) (s : Block) (n : Nat) (h : n ≤ bs) (hs : n ≤ s.length) :
    (pad bs s n).length = bs := by
  simp [pad]; omega

/-- The integer view is below `2^(8·length)`. -/
theorem blkInt_lt (x : Block) : blkInt x < 256 ^ x.length := by
  induction x with
  | nil => simp [blkInt]
  | cons b xs ih =>
    have hb : b.toNat < 256 := b.isLt
    have : b.toNat * 256 ^ xs.length ≤ 255 * 256 ^ xs.length := Nat.mul_le_mul_right _ (by omega)
    simp only [blkInt, List.length_cons, Nat.pow_succ]
    omega

/-- `int(blk(v)) = v mod 2^(8·n)` (R17). -/
theorem blkInt_blkOf (n v : Nat) : blkInt (blkOf n v) = v % 256 ^ n := by
  induction n generalizing v with
  | zero => simp [blkOf, blkInt, Nat.mod_one]
  | succ n ih =>
    simp only [blkOf, blkInt, length_blkOf, ih, BitVec.toNat_ofNat]
    rw [show (256 : Nat) ^ (n + 1) = 256 ^ n * 256 from Nat.pow_succ .., Nat.mod_mul (a := 256 ^ n) (b := 256),
      show (2 : Nat) ^ 8 = 256 from rfl, Nat.mul_comm (256 ^ n), Nat.add_comm]

theorem blkOf_add_mul (n a v : Nat) : blkOf n (a * 256 ^ n + v) = blkOf n v := by
  induction n generalizing a with
  | zero => rfl
  | succ n ih =>
    have e : a * 256 ^ (n + 1) + v = (a * 256) * 256 ^ n + v := by ring
    simp only [blkOf]
    rw [e, ih]
    congr 1
    apply BitVec.eq_of_toNat_eq
    simp only [BitVec.toNat_ofNat]
    rw [Nat.add_comm, Nat.add_mul_div_right _ _ (Nat.pow_pos (by decide))]
    norm_num

/-- `blk(int(X)) = X` (R17). -/
theorem blkOf_blkInt (x : Block) : blkOf x.length (blkInt x) = x := by
  induction x with
  | nil => rfl
  | cons b xs ih =>
    simp only [List.length_cons, blkOf, blkInt]
    rw [blkOf_add_mul, ih, Nat.add_comm, Nat.add_mul_div_right _ _ (Nat.pow_pos (by decide)),
      Nat.div_eq_of_lt (blkInt_lt xs)]
    simp

/-- Byte i of a block is the 8 bits of its integer view at byte `length − 1 − i` from the bottom (R17). -/
theorem blkInt_byte (x : Block) (i : Nat) (h : i < x.length) :
    blkInt x / 256 ^ (x.length - 1 - i) % 256 = (x.getD i 0).toNat := by
  induction x generalizing i with
  | nil => simp at h
  | cons b xs ih =>
    cases i with
    | zero =>
      simp only [blkInt, List.length_cons, Nat.add_sub_cancel, Nat.sub_zero, List.getD_cons_zero]
      rw [Nat.add_comm, Nat.add_mul_div_right _ _ (Nat.pow_pos (by decide)), Nat.div_eq_of_lt (blkInt_lt xs),
        Nat.zero_add, Nat.mod_eq_of_lt b.isLt]
    | succ i =>
      have hi : i < xs.length := by simpa using h
      have e : xs.length = (xs.length - 1 - i) + 1 + i := by omega
      have hlen : (b :: xs).length - 1 - (i + 1) = xs.length - 1 - i := by simp only [List.length_cons]; omega
      rw [List.getD_cons_succ, ← ih i hi, hlen, blkInt]
      have hp : 256 ^ xs.length = 256 ^ (xs.length - 1 - i) * (256 * 256 ^ i) := by
        conv_lhs => rw [e, Nat.pow_add, Nat.pow_succ, Nat.mul_assoc]
      rw [show b.toNat * 256 ^ xs.length + blkInt xs
            = blkInt xs + 256 ^ (xs.length - 1 - i) * (256 * (256 ^ i * b.toNat)) by rw [hp]; ring,
        Nat.add_mul_div_left _ _ (Nat.pow_pos (by decide)), Nat.add_mul_mod_self_left]

/-- `blk` depends on the number modulo `2^(8·n)` (R17). -/
theorem blkOf_mod (n v : Nat) : blkOf n (v % 256 ^ n) = blkOf n v := by
  conv_rhs => rw [← Nat.div_add_mod v (256 ^ n), Nat.mul_comm, blkOf_add_mul]

/-- XOR with the same block twice gives the first back (R151). -/
theorem xorBlock_cancel (a b : Block) (h : a.length ≤ b.length) : xorBlock (xorBlock a b) b = a := by
  induction a generalizing b with
  | nil => simp [xorBlock]
  | cons x xs ih =>
    cases b with
    | nil => simp at h
    | cons y ys =>
      have := ih ys (by simpa using h)
      simp_all [xorBlock]

@[simp] theorem length_encBlock (p : Params) (slot : BitVec 8) (x : Block) :
    (encBlock p slot x).length = x.length := by
  unfold encBlock attachedEnc
  split
  · exact (Config.cipher x.length slot ⟨x, rfl⟩).property
  · simp

@[simp] theorem length_decBlock (p : Params) (slot : BitVec 8) (x : Block) :
    (decBlock p slot x).length = x.length := by
  unfold decBlock attachedDec
  split
  · exact ((Config.cipher x.length slot).symm ⟨x, rfl⟩).property
  · simp

theorem attachedDec_of_length (slot : BitVec 8) (n : Nat) (y : Block) (h : y.length = n) :
    attachedDec slot y = ((Config.cipher n slot).symm ⟨y, h⟩).val := by subst h; rfl

theorem attachedEnc_of_length (slot : BitVec 8) (n : Nat) (y : Block) (h : y.length = n) :
    attachedEnc slot y = (Config.cipher n slot ⟨y, h⟩).val := by subst h; rfl

theorem length_attachedEnc (slot : BitVec 8) (x : Block) : (attachedEnc slot x).length = x.length :=
  (Config.cipher x.length slot ⟨x, rfl⟩).property

theorem length_attachedDec (slot : BitVec 8) (x : Block) : (attachedDec slot x).length = x.length :=
  ((Config.cipher x.length slot).symm ⟨x, rfl⟩).property

theorem attachedDec_attachedEnc (slot : BitVec 8) (x : Block) : attachedDec slot (attachedEnc slot x) = x := by
  rw [attachedDec_of_length slot x.length (attachedEnc slot x) (length_attachedEnc slot x)]
  simp [attachedEnc]

theorem attachedEnc_attachedDec (slot : BitVec 8) (x : Block) : attachedEnc slot (attachedDec slot x) = x := by
  rw [attachedEnc_of_length slot x.length (attachedDec slot x) (length_attachedDec slot x)]
  simp [attachedDec]

/-- Adding k and its complement modulo `2^(8·length)` gives the block back. -/
theorem blkOf_add_complement (x : Block) (k : Nat) :
    blkOf x.length (blkInt x + k + (256 ^ x.length - k % 256 ^ x.length)) = x := by
  have hpos : 0 < 256 ^ x.length := Nat.pow_pos (by decide)
  have hk : k % 256 ^ x.length < 256 ^ x.length := Nat.mod_lt _ hpos
  have hd := Nat.div_add_mod k (256 ^ x.length)
  rw [show blkInt x + k + (256 ^ x.length - k % 256 ^ x.length)
        = (k / 256 ^ x.length + 1) * 256 ^ x.length + blkInt x by
      rw [Nat.add_mul, Nat.one_mul, Nat.mul_comm (k / 256 ^ x.length)]; omega,
    blkOf_add_mul, blkOf_blkInt]

theorem blkOf_mod_add (n a b : Nat) : blkOf n (a % 256 ^ n + b) = blkOf n (a + b) := by
  rw [← blkOf_mod, Nat.mod_add_mod, blkOf_mod]

/-- `D(s, E(s, X)) = X` (R10, R147). -/
@[simp] theorem decBlock_encBlock (p : Params) (slot : BitVec 8) (x : Block) :
    decBlock p slot (encBlock p slot x) = x := by
  cases hp : p.prim with
  | attached => simp only [decBlock, encBlock, hp, attachedDec_attachedEnc]
  | adder k =>
    simp only [decBlock, encBlock, hp, length_blkOf, blkInt_blkOf, blkOf_mod_add, blkOf_add_complement]

/-- `E(s, D(s, X)) = X` (R10). -/
@[simp] theorem encBlock_decBlock (p : Params) (slot : BitVec 8) (x : Block) :
    encBlock p slot (decBlock p slot x) = x := by
  cases hp : p.prim with
  | attached => simp only [decBlock, encBlock, hp, attachedEnc_attachedDec]
  | adder k =>
    simp only [decBlock, encBlock, hp, length_blkOf, blkInt_blkOf, blkOf_mod_add]
    rw [Nat.add_right_comm, blkOf_add_complement]

/-- The port carries a block without loss (R95). -/
@[simp] theorem unpackBlock_packBlock (x : Block) : unpackBlock x.length (packBlock x.length x) = x := by
  have h : blkInt x < 2 ^ (8 * x.length) := by
    rw [Nat.pow_mul]; exact blkInt_lt x
  simp only [unpackBlock, packBlock, BitVec.toNat_ofNat, Nat.mod_eq_of_lt h, blkOf_blkInt]

/-- Byte i of a block stands in lane BS − 1 − i of the port (R95). -/
theorem packBlock_lane (bs : Nat) (x : Block) (i : Nat) (hx : x.length = bs) (hi : i < bs) :
    (packBlock bs x).extractLsb' (8 * (bs - 1 - i)) 8 = x.getD i 0 := by
  subst hx
  have h : blkInt x < 2 ^ (8 * x.length) := by
    rw [Nat.pow_mul]; exact blkInt_lt x
  apply BitVec.eq_of_toNat_eq
  rw [← blkInt_byte x i hi]
  rw [packBlock, BitVec.extractLsb'_toNat, BitVec.toNat_ofNat, Nat.mod_eq_of_lt h, Nat.shiftRight_eq_div_pow, Nat.pow_mul]

/-- The answer to a request is a block as long as its input (R95). -/
@[simp] theorem length_answer (p : Params) (c : PrimCall) : (c.answer p).length = c.input.length := by
  unfold PrimCall.answer; split <;> simp

/-- The answer to an E request is E (R95). -/
@[simp] theorem answer_encCall (p : Params) (slot : BitVec 8) (x : Block) :
    (encCall slot x).answer p = encBlock p slot x := rfl

/-- The answer to a D request is D (R95). -/
@[simp] theorem answer_decCall (p : Params) (slot : BitVec 8) (x : Block) :
    (decCall slot x).answer p = decBlock p slot x := rfl

/-- E is injective: D undoes it (R10). -/
theorem encBlock_injective (p : Params) (slot : BitVec 8) : Function.Injective (encBlock p slot) :=
  Function.LeftInverse.injective (decBlock_encBlock p slot)

/-- `Unpad` of a block: the value and length of a well-formed pad, nothing for a malformed one (R149). -/
theorem unpad_spec (bs : Nat) (hbs : bs = 8 ∨ bs = 16) (x : Block) (hx : x.length = bs) :
    (∀ n, PadIs bs x n → unpad bs x = some (x.take (bs - n) ++ zeros n, bs - n)) ∧
      ((¬∃ n, PadIs bs x n) → unpad bs x = none) := by
  constructor
  · rintro n ⟨h1, h2, h3⟩
    have hl := h3 (bs-1) (by omega) (by omega)
    unfold unpad
    rw [hl]
    have e : (BitVec.ofNat 8 n).toNat = n := by simp; omega
    simp only [e]
    rw [if_pos]
    refine ⟨⟨h1, h2⟩, ?_⟩
    rw [List.all_eq_true]
    intro b hb
    obtain ⟨i, hi, rfl⟩ := List.mem_iff_getElem.1 hb
    have := h3 (bs - n + i) (by simp at hi; omega) (by omega)
    have hi' : bs - n + i < x.length := by simp at hi; omega
    simp [hi'] at this ⊢
    rw [this]; simp; omega
  · intro h
    unfold unpad
    dsimp only
    rw [if_neg]
    rintro ⟨⟨h1, h2⟩, h3⟩
    apply h
    refine ⟨_, h1, h2, ?_⟩
    intro i hi hge
    rw [List.all_eq_true] at h3
    have hm : x.getD i 0 ∈ x.drop (bs - (x.getD (bs - 1) 0).toNat) := by
      rw [List.mem_iff_getElem]
      refine ⟨i - (bs - (x.getD (bs - 1) 0).toNat), by simp at *; omega, ?_⟩
      simp only [List.getElem_drop]
      have : bs - (x.getD (bs - 1) 0).toNat + (i - (bs - (x.getD (bs - 1) 0).toNat)) = i := by omega
      simp only [this]
      simp [hx, hi]
    have := h3 _ hm
    have e := beq_iff_eq.1 this
    rw [← e]; simp

/-- What an unpadding gives is a block and a length of at most BS (R149). -/
theorem unpad_some (bs : Nat) (x v : Block) (n : Nat) (hx : x.length = bs) (h : unpad bs x = some (v, n)) :
    v.length = bs ∧ n ≤ bs := by
  unfold unpad at h
  dsimp only at h
  split at h
  · rename_i hc
    cases h
    simp only [List.length_append, List.length_take, List.length_replicate, hx]; omega
  · cases h

/-- The output write of a whole block stores the block (R153). -/
theorem take_append_zeros (x : Block) (n : Nat) (h : x.length = n) : x.take n ++ zeros (n - n) = x := by
  subst h; simp

end Sys2Proof.Machine
end

