-- ==== Sys2Proof/Laws/State.lean ====
section
/-! SUPPORT. One lemma per field per update of a channel's bank and of the state, each true by definition, so that no proof
unfolds a record update. -/

namespace Sys2Proof.Machine

section
variable (ch : Channel) (bs n : Nat) (r : Block)

@[simp] theorem Channel.writeOut_keySlot : (ch.writeOut bs r n).keySlot = ch.keySlot := rfl
@[simp] theorem Channel.writeOut_ctrSel : (ch.writeOut bs r n).ctrSel = ch.ctrSel := rfl
@[simp] theorem Channel.writeOut_tagLen : (ch.writeOut bs r n).tagLen = ch.tagLen := rfl
@[simp] theorem Channel.writeOut_done : (ch.writeOut bs r n).done = ch.done := rfl
@[simp] theorem Channel.writeOut_err : (ch.writeOut bs r n).err = ch.err := rfl
@[simp] theorem Channel.writeOut_ovr : (ch.writeOut bs r n).ovr = ch.ovr := rfl
@[simp] theorem Channel.writeOut_wign : (ch.writeOut bs r n).wign = ch.wign := rfl
@[simp] theorem Channel.writeOut_errCode : (ch.writeOut bs r n).errCode = ch.errCode := rfl
@[simp] theorem Channel.writeOut_outLen : (ch.writeOut bs r n).outLen = n := rfl
@[simp] theorem Channel.writeOut_st : (ch.writeOut bs r n).st = ch.st := rfl
@[simp] theorem Channel.writeOut_dirv : (ch.writeOut bs r n).dirv = ch.dirv := rfl
@[simp] theorem Channel.writeOut_dir : (ch.writeOut bs r n).dir = ch.dir := rfl
@[simp] theorem Channel.writeOut_ivv : (ch.writeOut bs r n).ivv = ch.ivv := rfl
@[simp] theorem Channel.writeOut_skv : (ch.writeOut bs r n).skv = ch.skv := rfl
@[simp] theorem Channel.writeOut_cmip : (ch.writeOut bs r n).cmip = ch.cmip := rfl
@[simp] theorem Channel.writeOut_bmv : (ch.writeOut bs r n).bmv = ch.bmv := rfl
@[simp] theorem Channel.writeOut_bmode : (ch.writeOut bs r n).bmode = ch.bmode := rfl
@[simp] theorem Channel.writeOut_kpos : (ch.writeOut bs r n).kpos = ch.kpos := rfl
@[simp] theorem Channel.writeOut_doneIe : (ch.writeOut bs r n).doneIe = ch.doneIe := rfl
@[simp] theorem Channel.writeOut_errIe : (ch.writeOut bs r n).errIe = ch.errIe := rfl
@[simp] theorem Channel.writeOut_iv : (ch.writeOut bs r n).iv = ch.iv := rfl
@[simp] theorem Channel.writeOut_din : (ch.writeOut bs r n).din = ch.din := rfl
@[simp] theorem Channel.writeOut_dout : (ch.writeOut bs r n).dout = r.take n ++ zeros (bs - n) := rfl
@[simp] theorem Channel.writeOut_chain : (ch.writeOut bs r n).chain = ch.chain := rfl
@[simp] theorem Channel.writeOut_ks : (ch.writeOut bs r n).ks = ch.ks := rfl
@[simp] theorem Channel.writeOut_k1 : (ch.writeOut bs r n).k1 = ch.k1 := rfl
@[simp] theorem Channel.writeOut_k2 : (ch.writeOut bs r n).k2 = ch.k2 := rfl

end

section
variable (ch : Channel) (m : Mode) (d : Dir)

@[simp] theorem Channel.commit_keySlot : (ch.commit m d).keySlot = ch.keySlot := rfl
@[simp] theorem Channel.commit_ctrSel : (ch.commit m d).ctrSel = ch.ctrSel := rfl
@[simp] theorem Channel.commit_tagLen : (ch.commit m d).tagLen = ch.tagLen := rfl
@[simp] theorem Channel.commit_done : (ch.commit m d).done = ch.done := rfl
@[simp] theorem Channel.commit_err : (ch.commit m d).err = ch.err := rfl
@[simp] theorem Channel.commit_ovr : (ch.commit m d).ovr = ch.ovr := rfl
@[simp] theorem Channel.commit_wign : (ch.commit m d).wign = ch.wign := rfl
@[simp] theorem Channel.commit_errCode : (ch.commit m d).errCode = ch.errCode := rfl
@[simp] theorem Channel.commit_outLen : (ch.commit m d).outLen = ch.outLen := rfl
@[simp] theorem Channel.commit_st : (ch.commit m d).st = true := rfl
@[simp] theorem Channel.commit_dirv : (ch.commit m d).dirv = (if bindsDir m then true else ch.dirv) := rfl
@[simp] theorem Channel.commit_dir : (ch.commit m d).dir = (if bindsDir m then d else ch.dir) := rfl
@[simp] theorem Channel.commit_ivv : (ch.commit m d).ivv = ch.ivv := rfl
@[simp] theorem Channel.commit_skv : (ch.commit m d).skv = ch.skv := rfl
@[simp] theorem Channel.commit_cmip : (ch.commit m d).cmip = ch.cmip := rfl
@[simp] theorem Channel.commit_bmv : (ch.commit m d).bmv = true := rfl
@[simp] theorem Channel.commit_bmode : (ch.commit m d).bmode = m := rfl
@[simp] theorem Channel.commit_kpos : (ch.commit m d).kpos = ch.kpos := rfl
@[simp] theorem Channel.commit_doneIe : (ch.commit m d).doneIe = ch.doneIe := rfl
@[simp] theorem Channel.commit_errIe : (ch.commit m d).errIe = ch.errIe := rfl
@[simp] theorem Channel.commit_iv : (ch.commit m d).iv = ch.iv := rfl
@[simp] theorem Channel.commit_din : (ch.commit m d).din = ch.din := rfl
@[simp] theorem Channel.commit_dout : (ch.commit m d).dout = ch.dout := rfl
@[simp] theorem Channel.commit_chain : (ch.commit m d).chain = ch.chain := rfl
@[simp] theorem Channel.commit_ks : (ch.commit m d).ks = ch.ks := rfl
@[simp] theorem Channel.commit_k1 : (ch.commit m d).k1 = ch.k1 := rfl
@[simp] theorem Channel.commit_k2 : (ch.commit m d).k2 = ch.k2 := rfl

end

section
variable (ch : Channel) (e : ErrCode)

@[simp] theorem Channel.raise_keySlot : (ch.raise e).keySlot = ch.keySlot := rfl
@[simp] theorem Channel.raise_ctrSel : (ch.raise e).ctrSel = ch.ctrSel := rfl
@[simp] theorem Channel.raise_tagLen : (ch.raise e).tagLen = ch.tagLen := rfl
@[simp] theorem Channel.raise_done : (ch.raise e).done = ch.done := rfl
@[simp] theorem Channel.raise_err : (ch.raise e).err = true := rfl
@[simp] theorem Channel.raise_ovr : (ch.raise e).ovr = ch.ovr := rfl
@[simp] theorem Channel.raise_wign : (ch.raise e).wign = ch.wign := rfl
@[simp] theorem Channel.raise_errCode : (ch.raise e).errCode = some e := rfl
@[simp] theorem Channel.raise_outLen : (ch.raise e).outLen = 0 := rfl
@[simp] theorem Channel.raise_st : (ch.raise e).st = ch.st := rfl
@[simp] theorem Channel.raise_dirv : (ch.raise e).dirv = ch.dirv := rfl
@[simp] theorem Channel.raise_dir : (ch.raise e).dir = ch.dir := rfl
@[simp] theorem Channel.raise_ivv : (ch.raise e).ivv = ch.ivv := rfl
@[simp] theorem Channel.raise_skv : (ch.raise e).skv = ch.skv := rfl
@[simp] theorem Channel.raise_cmip : (ch.raise e).cmip = ch.cmip := rfl
@[simp] theorem Channel.raise_bmv : (ch.raise e).bmv = ch.bmv := rfl
@[simp] theorem Channel.raise_bmode : (ch.raise e).bmode = ch.bmode := rfl
@[simp] theorem Channel.raise_kpos : (ch.raise e).kpos = ch.kpos := rfl
@[simp] theorem Channel.raise_doneIe : (ch.raise e).doneIe = ch.doneIe := rfl
@[simp] theorem Channel.raise_errIe : (ch.raise e).errIe = ch.errIe := rfl
@[simp] theorem Channel.raise_iv : (ch.raise e).iv = ch.iv := rfl
@[simp] theorem Channel.raise_din : (ch.raise e).din = ch.din := rfl
@[simp] theorem Channel.raise_dout : (ch.raise e).dout = ch.dout := rfl
@[simp] theorem Channel.raise_chain : (ch.raise e).chain = ch.chain := rfl
@[simp] theorem Channel.raise_ks : (ch.raise e).ks = ch.ks := rfl
@[simp] theorem Channel.raise_k1 : (ch.raise e).k1 = ch.k1 := rfl
@[simp] theorem Channel.raise_k2 : (ch.raise e).k2 = ch.k2 := rfl

end

section
variable (ch : Channel) (v : Word)

@[simp] theorem Channel.ackStatus_keySlot : (ch.ackStatus v).keySlot = ch.keySlot := rfl
@[simp] theorem Channel.ackStatus_ctrSel : (ch.ackStatus v).ctrSel = ch.ctrSel := rfl
@[simp] theorem Channel.ackStatus_tagLen : (ch.ackStatus v).tagLen = ch.tagLen := rfl
@[simp] theorem Channel.ackStatus_done : (ch.ackStatus v).done = (ch.done && !v.getLsbD 0) := rfl
@[simp] theorem Channel.ackStatus_err : (ch.ackStatus v).err = (ch.err && !v.getLsbD 1) := rfl
@[simp] theorem Channel.ackStatus_ovr : (ch.ackStatus v).ovr = (ch.ovr && !v.getLsbD 2) := rfl
@[simp] theorem Channel.ackStatus_wign : (ch.ackStatus v).wign = (ch.wign && !v.getLsbD 3) := rfl
@[simp] theorem Channel.ackStatus_errCode : (ch.ackStatus v).errCode = (if v.getLsbD 1 then none else ch.errCode) := rfl
@[simp] theorem Channel.ackStatus_outLen : (ch.ackStatus v).outLen = ch.outLen := rfl
@[simp] theorem Channel.ackStatus_st : (ch.ackStatus v).st = ch.st := rfl
@[simp] theorem Channel.ackStatus_dirv : (ch.ackStatus v).dirv = ch.dirv := rfl
@[simp] theorem Channel.ackStatus_dir : (ch.ackStatus v).dir = ch.dir := rfl
@[simp] theorem Channel.ackStatus_ivv : (ch.ackStatus v).ivv = ch.ivv := rfl
@[simp] theorem Channel.ackStatus_skv : (ch.ackStatus v).skv = ch.skv := rfl
@[simp] theorem Channel.ackStatus_cmip : (ch.ackStatus v).cmip = ch.cmip := rfl
@[simp] theorem Channel.ackStatus_bmv : (ch.ackStatus v).bmv = ch.bmv := rfl
@[simp] theorem Channel.ackStatus_bmode : (ch.ackStatus v).bmode = ch.bmode := rfl
@[simp] theorem Channel.ackStatus_kpos : (ch.ackStatus v).kpos = ch.kpos := rfl
@[simp] theorem Channel.ackStatus_doneIe : (ch.ackStatus v).doneIe = ch.doneIe := rfl
@[simp] theorem Channel.ackStatus_errIe : (ch.ackStatus v).errIe = ch.errIe := rfl
@[simp] theorem Channel.ackStatus_iv : (ch.ackStatus v).iv = ch.iv := rfl
@[simp] theorem Channel.ackStatus_din : (ch.ackStatus v).din = ch.din := rfl
@[simp] theorem Channel.ackStatus_dout : (ch.ackStatus v).dout = ch.dout := rfl
@[simp] theorem Channel.ackStatus_chain : (ch.ackStatus v).chain = ch.chain := rfl
@[simp] theorem Channel.ackStatus_ks : (ch.ackStatus v).ks = ch.ks := rfl
@[simp] theorem Channel.ackStatus_k1 : (ch.ackStatus v).k1 = ch.k1 := rfl
@[simp] theorem Channel.ackStatus_k2 : (ch.ackStatus v).k2 = ch.k2 := rfl

end

section
variable (ch : Channel) (m : Mode)

@[simp] theorem Channel.newStream_keySlot : (ch.newStream m).keySlot = ch.keySlot := rfl
@[simp] theorem Channel.newStream_ctrSel : (ch.newStream m).ctrSel = ch.ctrSel := rfl
@[simp] theorem Channel.newStream_tagLen : (ch.newStream m).tagLen = ch.tagLen := rfl
@[simp] theorem Channel.newStream_done : (ch.newStream m).done = ch.done := rfl
@[simp] theorem Channel.newStream_err : (ch.newStream m).err = ch.err := rfl
@[simp] theorem Channel.newStream_ovr : (ch.newStream m).ovr = ch.ovr := rfl
@[simp] theorem Channel.newStream_wign : (ch.newStream m).wign = ch.wign := rfl
@[simp] theorem Channel.newStream_errCode : (ch.newStream m).errCode = ch.errCode := rfl
@[simp] theorem Channel.newStream_outLen : (ch.newStream m).outLen = 0 := rfl
@[simp] theorem Channel.newStream_st : (ch.newStream m).st = false := rfl
@[simp] theorem Channel.newStream_dirv : (ch.newStream m).dirv = false := rfl
@[simp] theorem Channel.newStream_dir : (ch.newStream m).dir = .encrypt := rfl
@[simp] theorem Channel.newStream_ivv : (ch.newStream m).ivv = ch.ivv := rfl
@[simp] theorem Channel.newStream_skv : (ch.newStream m).skv = ch.skv := rfl
@[simp] theorem Channel.newStream_cmip : (ch.newStream m).cmip = false := rfl
@[simp] theorem Channel.newStream_bmv : (ch.newStream m).bmv = true := rfl
@[simp] theorem Channel.newStream_bmode : (ch.newStream m).bmode = m := rfl
@[simp] theorem Channel.newStream_kpos : (ch.newStream m).kpos = 0 := rfl
@[simp] theorem Channel.newStream_doneIe : (ch.newStream m).doneIe = ch.doneIe := rfl
@[simp] theorem Channel.newStream_errIe : (ch.newStream m).errIe = ch.errIe := rfl
@[simp] theorem Channel.newStream_iv : (ch.newStream m).iv = ch.iv := rfl
@[simp] theorem Channel.newStream_din : (ch.newStream m).din = ch.din := rfl
@[simp] theorem Channel.newStream_dout : (ch.newStream m).dout = ch.dout := rfl
@[simp] theorem Channel.newStream_chain : (ch.newStream m).chain = ch.chain := rfl
@[simp] theorem Channel.newStream_ks : (ch.newStream m).ks = ch.ks := rfl
@[simp] theorem Channel.newStream_k1 : (ch.newStream m).k1 = ch.k1 := rfl
@[simp] theorem Channel.newStream_k2 : (ch.newStream m).k2 = ch.k2 := rfl

end

section
variable (ch : Channel) (m : Mode)

@[simp] theorem Channel.loadChain_keySlot : (ch.loadChain m).keySlot = ch.keySlot := rfl
@[simp] theorem Channel.loadChain_ctrSel : (ch.loadChain m).ctrSel = ch.ctrSel := rfl
@[simp] theorem Channel.loadChain_tagLen : (ch.loadChain m).tagLen = ch.tagLen := rfl
@[simp] theorem Channel.loadChain_done : (ch.loadChain m).done = ch.done := rfl
@[simp] theorem Channel.loadChain_err : (ch.loadChain m).err = ch.err := rfl
@[simp] theorem Channel.loadChain_ovr : (ch.loadChain m).ovr = ch.ovr := rfl
@[simp] theorem Channel.loadChain_wign : (ch.loadChain m).wign = ch.wign := rfl
@[simp] theorem Channel.loadChain_errCode : (ch.loadChain m).errCode = ch.errCode := rfl
@[simp] theorem Channel.loadChain_outLen : (ch.loadChain m).outLen = 0 := rfl
@[simp] theorem Channel.loadChain_st : (ch.loadChain m).st = false := rfl
@[simp] theorem Channel.loadChain_dirv : (ch.loadChain m).dirv = false := rfl
@[simp] theorem Channel.loadChain_dir : (ch.loadChain m).dir = .encrypt := rfl
@[simp] theorem Channel.loadChain_ivv : (ch.loadChain m).ivv = true := rfl
@[simp] theorem Channel.loadChain_skv : (ch.loadChain m).skv = ch.skv := rfl
@[simp] theorem Channel.loadChain_cmip : (ch.loadChain m).cmip = false := rfl
@[simp] theorem Channel.loadChain_bmv : (ch.loadChain m).bmv = true := rfl
@[simp] theorem Channel.loadChain_bmode : (ch.loadChain m).bmode = m := rfl
@[simp] theorem Channel.loadChain_kpos : (ch.loadChain m).kpos = 0 := rfl
@[simp] theorem Channel.loadChain_doneIe : (ch.loadChain m).doneIe = ch.doneIe := rfl
@[simp] theorem Channel.loadChain_errIe : (ch.loadChain m).errIe = ch.errIe := rfl
@[simp] theorem Channel.loadChain_iv : (ch.loadChain m).iv = ch.iv := rfl
@[simp] theorem Channel.loadChain_din : (ch.loadChain m).din = ch.din := rfl
@[simp] theorem Channel.loadChain_dout : (ch.loadChain m).dout = ch.dout := rfl
@[simp] theorem Channel.loadChain_chain : (ch.loadChain m).chain = ch.iv := rfl
@[simp] theorem Channel.loadChain_ks : (ch.loadChain m).ks = ch.ks := rfl
@[simp] theorem Channel.loadChain_k1 : (ch.loadChain m).k1 = ch.k1 := rfl
@[simp] theorem Channel.loadChain_k2 : (ch.loadChain m).k2 = ch.k2 := rfl

end

section
variable (ch : Channel) (bs : Nat)

@[simp] theorem Channel.clear_keySlot : (ch.clear bs).keySlot = ch.keySlot := rfl
@[simp] theorem Channel.clear_ctrSel : (ch.clear bs).ctrSel = ch.ctrSel := rfl
@[simp] theorem Channel.clear_tagLen : (ch.clear bs).tagLen = ch.tagLen := rfl
@[simp] theorem Channel.clear_done : (ch.clear bs).done = ch.done := rfl
@[simp] theorem Channel.clear_err : (ch.clear bs).err = ch.err := rfl
@[simp] theorem Channel.clear_ovr : (ch.clear bs).ovr = ch.ovr := rfl
@[simp] theorem Channel.clear_wign : (ch.clear bs).wign = ch.wign := rfl
@[simp] theorem Channel.clear_errCode : (ch.clear bs).errCode = ch.errCode := rfl
@[simp] theorem Channel.clear_outLen : (ch.clear bs).outLen = 0 := rfl
@[simp] theorem Channel.clear_st : (ch.clear bs).st = false := rfl
@[simp] theorem Channel.clear_dirv : (ch.clear bs).dirv = false := rfl
@[simp] theorem Channel.clear_dir : (ch.clear bs).dir = .encrypt := rfl
@[simp] theorem Channel.clear_ivv : (ch.clear bs).ivv = false := rfl
@[simp] theorem Channel.clear_skv : (ch.clear bs).skv = false := rfl
@[simp] theorem Channel.clear_cmip : (ch.clear bs).cmip = false := rfl
@[simp] theorem Channel.clear_bmv : (ch.clear bs).bmv = false := rfl
@[simp] theorem Channel.clear_bmode : (ch.clear bs).bmode = .ecb := rfl
@[simp] theorem Channel.clear_kpos : (ch.clear bs).kpos = 0 := rfl
@[simp] theorem Channel.clear_doneIe : (ch.clear bs).doneIe = ch.doneIe := rfl
@[simp] theorem Channel.clear_errIe : (ch.clear bs).errIe = ch.errIe := rfl
@[simp] theorem Channel.clear_iv : (ch.clear bs).iv = ch.iv := rfl
@[simp] theorem Channel.clear_din : (ch.clear bs).din = ch.din := rfl
@[simp] theorem Channel.clear_dout : (ch.clear bs).dout = zeros bs := rfl
@[simp] theorem Channel.clear_chain : (ch.clear bs).chain = zeros bs := rfl
@[simp] theorem Channel.clear_ks : (ch.clear bs).ks = zeros bs := rfl
@[simp] theorem Channel.clear_k1 : (ch.clear bs).k1 = zeros bs := rfl
@[simp] theorem Channel.clear_k2 : (ch.clear bs).k2 = zeros bs := rfl

end

section
variable (ch : Channel) (p : Params)

@[simp] theorem Channel.deriveSubkeys_keySlot : (ch.deriveSubkeys p).keySlot = ch.keySlot := rfl
@[simp] theorem Channel.deriveSubkeys_ctrSel : (ch.deriveSubkeys p).ctrSel = ch.ctrSel := rfl
@[simp] theorem Channel.deriveSubkeys_tagLen : (ch.deriveSubkeys p).tagLen = ch.tagLen := rfl
@[simp] theorem Channel.deriveSubkeys_done : (ch.deriveSubkeys p).done = ch.done := rfl
@[simp] theorem Channel.deriveSubkeys_err : (ch.deriveSubkeys p).err = ch.err := rfl
@[simp] theorem Channel.deriveSubkeys_ovr : (ch.deriveSubkeys p).ovr = ch.ovr := rfl
@[simp] theorem Channel.deriveSubkeys_wign : (ch.deriveSubkeys p).wign = ch.wign := rfl
@[simp] theorem Channel.deriveSubkeys_errCode : (ch.deriveSubkeys p).errCode = ch.errCode := rfl
@[simp] theorem Channel.deriveSubkeys_outLen : (ch.deriveSubkeys p).outLen = ch.outLen := rfl
@[simp] theorem Channel.deriveSubkeys_st : (ch.deriveSubkeys p).st = ch.st := rfl
@[simp] theorem Channel.deriveSubkeys_dirv : (ch.deriveSubkeys p).dirv = ch.dirv := rfl
@[simp] theorem Channel.deriveSubkeys_dir : (ch.deriveSubkeys p).dir = ch.dir := rfl
@[simp] theorem Channel.deriveSubkeys_ivv : (ch.deriveSubkeys p).ivv = ch.ivv := rfl
@[simp] theorem Channel.deriveSubkeys_skv : (ch.deriveSubkeys p).skv = true := rfl
@[simp] theorem Channel.deriveSubkeys_cmip : (ch.deriveSubkeys p).cmip = ch.cmip := rfl
@[simp] theorem Channel.deriveSubkeys_bmv : (ch.deriveSubkeys p).bmv = ch.bmv := rfl
@[simp] theorem Channel.deriveSubkeys_bmode : (ch.deriveSubkeys p).bmode = ch.bmode := rfl
@[simp] theorem Channel.deriveSubkeys_kpos : (ch.deriveSubkeys p).kpos = ch.kpos := rfl
@[simp] theorem Channel.deriveSubkeys_doneIe : (ch.deriveSubkeys p).doneIe = ch.doneIe := rfl
@[simp] theorem Channel.deriveSubkeys_errIe : (ch.deriveSubkeys p).errIe = ch.errIe := rfl
@[simp] theorem Channel.deriveSubkeys_iv : (ch.deriveSubkeys p).iv = ch.iv := rfl
@[simp] theorem Channel.deriveSubkeys_din : (ch.deriveSubkeys p).din = ch.din := rfl
@[simp] theorem Channel.deriveSubkeys_dout : (ch.deriveSubkeys p).dout = ch.dout := rfl
@[simp] theorem Channel.deriveSubkeys_chain : (ch.deriveSubkeys p).chain = ch.chain := rfl
@[simp] theorem Channel.deriveSubkeys_ks : (ch.deriveSubkeys p).ks = ch.ks := rfl
@[simp] theorem Channel.deriveSubkeys_k1 : (ch.deriveSubkeys p).k1 = dbl (encBlock p ch.keySlot (zeros p.bs)) := rfl
@[simp] theorem Channel.deriveSubkeys_k2 : (ch.deriveSubkeys p).k2 = dbl (dbl (encBlock p ch.keySlot (zeros p.bs))) := rfl

end

section
variable (ch : Channel) (v : Word)

@[simp] theorem Channel.setIrqen_keySlot : (ch.setIrqen v).keySlot = ch.keySlot := rfl
@[simp] theorem Channel.setIrqen_ctrSel : (ch.setIrqen v).ctrSel = ch.ctrSel := rfl
@[simp] theorem Channel.setIrqen_tagLen : (ch.setIrqen v).tagLen = ch.tagLen := rfl
@[simp] theorem Channel.setIrqen_done : (ch.setIrqen v).done = ch.done := rfl
@[simp] theorem Channel.setIrqen_err : (ch.setIrqen v).err = ch.err := rfl
@[simp] theorem Channel.setIrqen_ovr : (ch.setIrqen v).ovr = ch.ovr := rfl
@[simp] theorem Channel.setIrqen_wign : (ch.setIrqen v).wign = ch.wign := rfl
@[simp] theorem Channel.setIrqen_errCode : (ch.setIrqen v).errCode = ch.errCode := rfl
@[simp] theorem Channel.setIrqen_outLen : (ch.setIrqen v).outLen = ch.outLen := rfl
@[simp] theorem Channel.setIrqen_st : (ch.setIrqen v).st = ch.st := rfl
@[simp] theorem Channel.setIrqen_dirv : (ch.setIrqen v).dirv = ch.dirv := rfl
@[simp] theorem Channel.setIrqen_dir : (ch.setIrqen v).dir = ch.dir := rfl
@[simp] theorem Channel.setIrqen_ivv : (ch.setIrqen v).ivv = ch.ivv := rfl
@[simp] theorem Channel.setIrqen_skv : (ch.setIrqen v).skv = ch.skv := rfl
@[simp] theorem Channel.setIrqen_cmip : (ch.setIrqen v).cmip = ch.cmip := rfl
@[simp] theorem Channel.setIrqen_bmv : (ch.setIrqen v).bmv = ch.bmv := rfl
@[simp] theorem Channel.setIrqen_bmode : (ch.setIrqen v).bmode = ch.bmode := rfl
@[simp] theorem Channel.setIrqen_kpos : (ch.setIrqen v).kpos = ch.kpos := rfl
@[simp] theorem Channel.setIrqen_doneIe : (ch.setIrqen v).doneIe = v.getLsbD 0 := rfl
@[simp] theorem Channel.setIrqen_errIe : (ch.setIrqen v).errIe = v.getLsbD 1 := rfl
@[simp] theorem Channel.setIrqen_iv : (ch.setIrqen v).iv = ch.iv := rfl
@[simp] theorem Channel.setIrqen_din : (ch.setIrqen v).din = ch.din := rfl
@[simp] theorem Channel.setIrqen_dout : (ch.setIrqen v).dout = ch.dout := rfl
@[simp] theorem Channel.setIrqen_chain : (ch.setIrqen v).chain = ch.chain := rfl
@[simp] theorem Channel.setIrqen_ks : (ch.setIrqen v).ks = ch.ks := rfl
@[simp] theorem Channel.setIrqen_k1 : (ch.setIrqen v).k1 = ch.k1 := rfl
@[simp] theorem Channel.setIrqen_k2 : (ch.setIrqen v).k2 = ch.k2 := rfl

end

section
variable (ch : Channel) (bs len : Nat) (m : StreamMode) (d : Dir) (r : StreamRegs)

@[simp] theorem Channel.afterStream_keySlot : (ch.afterStream bs m d len r).keySlot = ch.keySlot := rfl
@[simp] theorem Channel.afterStream_ctrSel : (ch.afterStream bs m d len r).ctrSel = ch.ctrSel := rfl
@[simp] theorem Channel.afterStream_tagLen : (ch.afterStream bs m d len r).tagLen = ch.tagLen := rfl
@[simp] theorem Channel.afterStream_done : (ch.afterStream bs m d len r).done = ch.done := rfl
@[simp] theorem Channel.afterStream_err : (ch.afterStream bs m d len r).err = ch.err := rfl
@[simp] theorem Channel.afterStream_ovr : (ch.afterStream bs m d len r).ovr = ch.ovr := rfl
@[simp] theorem Channel.afterStream_wign : (ch.afterStream bs m d len r).wign = ch.wign := rfl
@[simp] theorem Channel.afterStream_errCode : (ch.afterStream bs m d len r).errCode = ch.errCode := rfl
@[simp] theorem Channel.afterStream_outLen : (ch.afterStream bs m d len r).outLen = len := rfl
@[simp] theorem Channel.afterStream_st : (ch.afterStream bs m d len r).st = true := rfl
@[simp] theorem Channel.afterStream_dirv : (ch.afterStream bs m d len r).dirv = (if bindsDir (streamMode m) then true else ch.dirv) := rfl
@[simp] theorem Channel.afterStream_dir : (ch.afterStream bs m d len r).dir = (if bindsDir (streamMode m) then d else ch.dir) := rfl
@[simp] theorem Channel.afterStream_ivv : (ch.afterStream bs m d len r).ivv = ch.ivv := rfl
@[simp] theorem Channel.afterStream_skv : (ch.afterStream bs m d len r).skv = ch.skv := rfl
@[simp] theorem Channel.afterStream_cmip : (ch.afterStream bs m d len r).cmip = ch.cmip := rfl
@[simp] theorem Channel.afterStream_bmv : (ch.afterStream bs m d len r).bmv = true := rfl
@[simp] theorem Channel.afterStream_bmode : (ch.afterStream bs m d len r).bmode = streamMode m := rfl
@[simp] theorem Channel.afterStream_kpos : (ch.afterStream bs m d len r).kpos = r.kpos := rfl
@[simp] theorem Channel.afterStream_doneIe : (ch.afterStream bs m d len r).doneIe = ch.doneIe := rfl
@[simp] theorem Channel.afterStream_errIe : (ch.afterStream bs m d len r).errIe = ch.errIe := rfl
@[simp] theorem Channel.afterStream_iv : (ch.afterStream bs m d len r).iv = ch.iv := rfl
@[simp] theorem Channel.afterStream_din : (ch.afterStream bs m d len r).din = ch.din := rfl
@[simp] theorem Channel.afterStream_dout : (ch.afterStream bs m d len r).dout = r.out.take len ++ zeros (bs - len) := rfl
@[simp] theorem Channel.afterStream_chain : (ch.afterStream bs m d len r).chain = r.chain := rfl
@[simp] theorem Channel.afterStream_ks : (ch.afterStream bs m d len r).ks = r.ks := rfl
@[simp] theorem Channel.afterStream_k1 : (ch.afterStream bs m d len r).k1 = ch.k1 := rfl
@[simp] theorem Channel.afterStream_k2 : (ch.afterStream bs m d len r).k2 = ch.k2 := rfl

end

section
variable (s : State) (c : Nat) (ch : Channel)

@[simp] theorem State.setChan_params : (s.setChan c ch).params = s.params := rfl
@[simp] theorem State.setChan_fatal : (s.setChan c ch).fatal = s.fatal := rfl
@[simp] theorem State.setChan_gbusy : (s.setChan c ch).gbusy = s.gbusy := rfl
@[simp] theorem State.setChan_pch : (s.setChan c ch).pch = s.pch := rfl
@[simp] theorem State.setChan_pcmd : (s.setChan c ch).pcmd = s.pcmd := rfl
@[simp] theorem State.setChan_cnt : (s.setChan c ch).cnt = s.cnt := rfl
@[simp] theorem State.setChan_ctrv : (s.setChan c ch).ctrv = s.ctrv := rfl
@[simp] theorem State.setChan_chans : (s.setChan c ch).chans = s.chans.set c ch := rfl
@[simp] theorem State.setChan_rstLow : (s.setChan c ch).rstLow = s.rstLow := rfl
@[simp] theorem State.setChan_events : (s.setChan c ch).events = s.events := rfl
@[simp] theorem State.setChan_busResp : (s.setChan c ch).busResp = s.busResp := rfl
@[simp] theorem State.setChan_primLog : (s.setChan c ch).primLog = s.primLog := rfl

end

section
variable (s : State) (c : Nat)

@[simp] theorem State.ignoreWrite_params : (s.ignoreWrite c).params = s.params := rfl
@[simp] theorem State.ignoreWrite_fatal : (s.ignoreWrite c).fatal = s.fatal := rfl
@[simp] theorem State.ignoreWrite_gbusy : (s.ignoreWrite c).gbusy = s.gbusy := rfl
@[simp] theorem State.ignoreWrite_pch : (s.ignoreWrite c).pch = s.pch := rfl
@[simp] theorem State.ignoreWrite_pcmd : (s.ignoreWrite c).pcmd = s.pcmd := rfl
@[simp] theorem State.ignoreWrite_cnt : (s.ignoreWrite c).cnt = s.cnt := rfl
@[simp] theorem State.ignoreWrite_ctrv : (s.ignoreWrite c).ctrv = s.ctrv := rfl
@[simp] theorem State.ignoreWrite_chans : (s.ignoreWrite c).chans = s.chans.set c { s.chan c with wign := true } := rfl
@[simp] theorem State.ignoreWrite_rstLow : (s.ignoreWrite c).rstLow = s.rstLow := rfl
@[simp] theorem State.ignoreWrite_events : (s.ignoreWrite c).events = s.events := rfl
@[simp] theorem State.ignoreWrite_busResp : (s.ignoreWrite c).busResp = s.busResp := rfl
@[simp] theorem State.ignoreWrite_primLog : (s.ignoreWrite c).primLog = s.primLog := rfl

end

section
variable (s : State) (r : BusResponse)

@[simp] theorem State.respond_params : (s.respond r).params = s.params := rfl
@[simp] theorem State.respond_fatal : (s.respond r).fatal = s.fatal := rfl
@[simp] theorem State.respond_gbusy : (s.respond r).gbusy = s.gbusy := rfl
@[simp] theorem State.respond_pch : (s.respond r).pch = s.pch := rfl
@[simp] theorem State.respond_pcmd : (s.respond r).pcmd = s.pcmd := rfl
@[simp] theorem State.respond_cnt : (s.respond r).cnt = s.cnt := rfl
@[simp] theorem State.respond_ctrv : (s.respond r).ctrv = s.ctrv := rfl
@[simp] theorem State.respond_chans : (s.respond r).chans = s.chans := rfl
@[simp] theorem State.respond_rstLow : (s.respond r).rstLow = s.rstLow := rfl
@[simp] theorem State.respond_events : (s.respond r).events = s.events := rfl
@[simp] theorem State.respond_busResp : (s.respond r).busResp = r := rfl
@[simp] theorem State.respond_primLog : (s.respond r).primLog = s.primLog := rfl

end

section
variable (s : State) (r : CmdResult)

@[simp] theorem State.complete_params : (s.complete r).params = s.params := rfl
@[simp] theorem State.complete_fatal : (s.complete r).fatal = s.fatal := rfl
@[simp] theorem State.complete_gbusy : (s.complete r).gbusy = false := rfl
@[simp] theorem State.complete_pch : (s.complete r).pch = s.pch := rfl
@[simp] theorem State.complete_pcmd : (s.complete r).pcmd = s.pcmd := rfl
@[simp] theorem State.complete_cnt : (s.complete r).cnt = (s.outcome r).cnt := rfl
@[simp] theorem State.complete_ctrv : (s.complete r).ctrv = (s.outcome r).ctrv := rfl
@[simp] theorem State.complete_chans : (s.complete r).chans = s.chans.set s.pch { (s.outcome r).chan with done := true } := rfl
@[simp] theorem State.complete_rstLow : (s.complete r).rstLow = s.rstLow := rfl
@[simp] theorem State.complete_events : (s.complete r).events = s.events := rfl
@[simp] theorem State.complete_busResp : (s.complete r).busResp = s.busResp := rfl
@[simp] theorem State.complete_primLog : (s.complete r).primLog = r.calls := rfl

end

section
variable (s : State) (w : Word)

@[simp] theorem State.placeCommand_params : (s.placeCommand w).params = s.params := rfl
@[simp] theorem State.placeCommand_fatal : (s.placeCommand w).fatal = s.fatal := rfl
@[simp] theorem State.placeCommand_gbusy : (s.placeCommand w).gbusy = true := rfl
@[simp] theorem State.placeCommand_pch : (s.placeCommand w).pch = s.pch := rfl
@[simp] theorem State.placeCommand_pcmd : (s.placeCommand w).pcmd = w := rfl
@[simp] theorem State.placeCommand_cnt : (s.placeCommand w).cnt = s.cnt := rfl
@[simp] theorem State.placeCommand_ctrv : (s.placeCommand w).ctrv = s.ctrv := rfl
@[simp] theorem State.placeCommand_chans : (s.placeCommand w).chans = s.chans := rfl
@[simp] theorem State.placeCommand_rstLow : (s.placeCommand w).rstLow = false := rfl
@[simp] theorem State.placeCommand_events : (s.placeCommand w).events = .engine :: s.events := rfl
@[simp] theorem State.placeCommand_busResp : (s.placeCommand w).busResp = s.busResp := rfl
@[simp] theorem State.placeCommand_primLog : (s.placeCommand w).primLog = s.primLog := rfl

end

section
variable (s : State) (calls : List PrimCall) (ch : Channel)

@[simp] theorem State.ended_params : (s.ended calls ch).params = s.params := rfl
@[simp] theorem State.ended_fatal : (s.ended calls ch).fatal = s.fatal := rfl
@[simp] theorem State.ended_gbusy : (s.ended calls ch).gbusy = false := rfl
@[simp] theorem State.ended_pch : (s.ended calls ch).pch = s.pch := rfl
@[simp] theorem State.ended_pcmd : (s.ended calls ch).pcmd = s.pcmd := rfl
@[simp] theorem State.ended_cnt : (s.ended calls ch).cnt = s.cnt := rfl
@[simp] theorem State.ended_ctrv : (s.ended calls ch).ctrv = s.ctrv := rfl
@[simp] theorem State.ended_chans : (s.ended calls ch).chans = s.chans.set s.pch { ch with done := true } := rfl
@[simp] theorem State.ended_rstLow : (s.ended calls ch).rstLow = s.rstLow := rfl
@[simp] theorem State.ended_events : (s.ended calls ch).events = s.events := rfl
@[simp] theorem State.ended_busResp : (s.ended calls ch).busResp = s.busResp := rfl
@[simp] theorem State.ended_primLog : (s.ended calls ch).primLog = calls := rfl

end

section
variable (s : State)

@[simp] theorem State.doReset_params : (s.doReset).params = s.params := rfl
@[simp] theorem State.doReset_fatal : (s.doReset).fatal = decide (s.params.primBs ≠ s.params.bs) := rfl
@[simp] theorem State.doReset_gbusy : (s.doReset).gbusy = false := rfl
@[simp] theorem State.doReset_pch : (s.doReset).pch = 0 := rfl
@[simp] theorem State.doReset_pcmd : (s.doReset).pcmd = 0 := rfl
@[simp] theorem State.doReset_cnt : (s.doReset).cnt = List.replicate s.params.nctr (zeros s.params.bs) := rfl
@[simp] theorem State.doReset_ctrv : (s.doReset).ctrv = List.replicate s.params.nctr false := rfl
@[simp] theorem State.doReset_chans : (s.doReset).chans = (List.range s.params.nch).map (Channel.reset s.params) := rfl
@[simp] theorem State.doReset_rstLow : (s.doReset).rstLow = s.rstLow := rfl
@[simp] theorem State.doReset_events : (s.doReset).events = s.events := rfl
@[simp] theorem State.doReset_busResp : (s.doReset).busResp = .idle := rfl
@[simp] theorem State.doReset_primLog : (s.doReset).primLog = [] := rfl

end

section
variable (p : Params)

@[simp] theorem State.resetFor_params : (State.resetFor p).params = p := rfl
@[simp] theorem State.resetFor_fatal : (State.resetFor p).fatal = decide (p.primBs ≠ p.bs) := rfl
@[simp] theorem State.resetFor_gbusy : (State.resetFor p).gbusy = false := rfl
@[simp] theorem State.resetFor_pch : (State.resetFor p).pch = 0 := rfl
@[simp] theorem State.resetFor_pcmd : (State.resetFor p).pcmd = 0 := rfl
@[simp] theorem State.resetFor_cnt : (State.resetFor p).cnt = List.replicate p.nctr (zeros p.bs) := rfl
@[simp] theorem State.resetFor_ctrv : (State.resetFor p).ctrv = List.replicate p.nctr false := rfl
@[simp] theorem State.resetFor_chans : (State.resetFor p).chans = (List.range p.nch).map (Channel.reset p) := rfl
@[simp] theorem State.resetFor_rstLow : (State.resetFor p).rstLow = false := rfl
@[simp] theorem State.resetFor_events : (State.resetFor p).events = [] := rfl
@[simp] theorem State.resetFor_busResp : (State.resetFor p).busResp = .idle := rfl
@[simp] theorem State.resetFor_primLog : (State.resetFor p).primLog = [] := rfl

end

end Sys2Proof.Machine
end

