-- ==== Sys2Proof/Laws/Ops.lean ====
section
/-! SUPPORT. What each shared operation over the state can do, said once. -/

namespace Sys2Proof.Machine

section
variable (s : State) (c d : Nat) (ch : Channel)

theorem State.chan_mem (h : c < s.chans.length) : s.chan c ∈ s.chans := by
  simp [State.chan, List.getElem?_eq_getElem h]

theorem State.chan_setChan_same (h : c < s.chans.length) : (s.setChan c ch).chan c = ch := by
  simp [State.chan, h]

theorem State.chan_setChan_ne (h : d ≠ c) : (s.setChan c ch).chan d = s.chan d := by
  simp [State.chan, List.getD_eq_getElem?_getD, List.getElem?_set_ne (Ne.symm h)]

theorem State.chan_ended_same (calls : List PrimCall) (h : s.pch < s.chans.length) :
    (s.ended calls ch).chan s.pch = { ch with done := true } := by
  simp [State.chan, h]

theorem State.chan_ended_ne (calls : List PrimCall) (h : c ≠ s.pch) : (s.ended calls ch).chan c = s.chan c := by
  simp [State.chan, List.getD_eq_getElem?_getD, List.getElem?_set_ne (Ne.symm h)]

end

/-- Normal completion of a command that writes its channel alone (R142). -/
@[simp] theorem State.complete_writesChan (s : State) (calls : List PrimCall) (ch : Channel) :
    s.complete (s.writesChan calls ch) = s.ended calls ch := rfl

/-- Error completion (R143). -/
@[simp] theorem State.complete_raiseErr (s : State) (calls : List PrimCall) (e : ErrCode) :
    s.complete (raiseErr calls e) = s.failed calls e := rfl

/-- Normal completion of a command that also writes its counter (R231). -/
theorem State.complete_writesCounter (s : State) (calls : List PrimCall) (ch : Channel) (v : Block) :
    s.complete (s.writesCounter calls ch v) = { s.ended calls ch with cnt := s.cnt.set ch.ctrSel.toNat v } := rfl

/-- A command under FATAL ends with BlockSizeMismatch, whatever its effect (R265). -/
theorem State.runPlain_fatal (s : State) (body : Channel → CmdResult) (h : s.fatal = true) :
    s.runPlain body = s.failed [] .blockSizeMismatch := by simp [State.runPlain, h]

/-- A command without FATAL is its effect, completed (R141). -/
theorem State.runPlain_ok (s : State) (body : Channel → CmdResult) (h : s.fatal = false) :
    s.runPlain body = s.complete (body s.cur) := by simp [State.runPlain, h]

/-- A data command that a check refuses ends with that check's code and without a primitive call (R144). -/
theorem State.runData_refused (s : State) (op : DataOp) (m : Mode) (len : Nat) (body : Channel → CmdResult)
    (e : ErrCode) (h : s.fatal = false) (hc : dataCheck s.params s.cur (s.ctrLoaded s.cur) op m len = some e) :
    s.runData op m len body = s.failed [] e := by
  simp [State.runData, State.runPlain, h, hc]

/-- A data command that passes every check is its effect, completed (R144). -/
theorem State.runData_admitted (s : State) (op : DataOp) (m : Mode) (len : Nat) (body : Channel → CmdResult)
    (h : s.fatal = false) (hc : dataCheck s.params s.cur (s.ctrLoaded s.cur) op m len = none) :
    s.runData op m len body = s.complete (body s.cur) := by
  simp [State.runData, State.runPlain, h, hc]

/-- Passing the checks before the length check, and the length check, is passing them all (R144). -/
theorem State.dataCheck_none (s : State) (op : DataOp) (m : Mode) (len : Nat) (h : s.Admits m op.dir)
    (hl : lenOk s.params.bs s.cur.cmip op m len = true) :
    dataCheck s.params s.cur (s.ctrLoaded s.cur) op m len = none := by
  obtain ⟨-, hm, hk, hd, hc⟩ := h
  unfold dataCheck
  rw [if_neg (by cases hb : s.cur.bmv <;> simp_all), if_neg (by simp [hk]), if_neg, if_neg, if_neg (by simp [hl])]
  · cases hb : bindsDir m <;> cases hv : s.cur.dirv <;> simp_all
  · cases m <;> simp_all [ivMissing, bindsDir, State.ctrLoaded]

/-- No check of a data command raises InvalidPadding (R144). -/
theorem dataCheck_ne_invalidPadding (p : Params) (ch : Channel) (ctrLoaded : Bool) (op : DataOp) (m : Mode) (len : Nat)
    (e : ErrCode) (h : dataCheck p ch ctrLoaded op m len = some e) : e ≠ .invalidPadding := by
  unfold dataCheck at h
  rintro rfl
  iterate 5 (split at h; · cases h)
  cases h

/-- A command without checks of its own fails before its effect, or is its effect completed (R141). -/
theorem State.runPlain_cases (s : State) (body : Channel → CmdResult) :
    (∃ e, e ≠ .invalidPadding ∧ s.runPlain body = s.complete (raiseErr [] e)) ∨
      (s.fatal = false ∧ s.runPlain body = s.complete (body s.cur)) := by
  cases hf : s.fatal
  · exact .inr ⟨rfl, State.runPlain_ok _ _ hf⟩
  · exact .inl ⟨_, by simp, State.runPlain_fatal _ _ hf⟩

/-- A data command fails before its effect, or passes every check and is its effect completed (R144). -/
theorem State.runData_cases (s : State) (op : DataOp) (m : Mode) (len : Nat) (body : Channel → CmdResult) :
    (∃ e, e ≠ .invalidPadding ∧ s.runData op m len body = s.complete (raiseErr [] e)) ∨
      (s.fatal = false ∧ dataCheck s.params s.cur (s.ctrLoaded s.cur) op m len = none ∧
        s.runData op m len body = s.complete (body s.cur)) := by
  cases hf : s.fatal
  · cases hc : dataCheck s.params s.cur (s.ctrLoaded s.cur) op m len with
    | none => exact .inr ⟨rfl, rfl, State.runData_admitted _ _ _ _ _ hf hc⟩
    | some e => exact .inl ⟨e, dataCheck_ne_invalidPadding _ _ _ _ _ _ _ hc, State.runData_refused _ _ _ _ _ e hf hc⟩
  · exact .inl ⟨_, by simp, State.runPlain_fatal _ _ hf⟩

/-- The channel of a completion is the command's, with DONE set (R141). -/
theorem State.cur_complete (s : State) (r : CmdResult) (h : s.pch < s.chans.length) :
    (s.complete r).cur = { (s.outcome r).chan with done := true } := by
  simp [State.cur, State.chan, h]

/-- Every other channel is as it was (R156). -/
theorem State.chan_complete_ne (s : State) (r : CmdResult) (c : Nat) (h : c ≠ s.pch) :
    (s.complete r).chan c = s.chan c := by
  simp [State.chan, List.getD_eq_getElem?_getD, List.getElem?_set_ne (Ne.symm h)]

/-- Every command ends in a completion of the state it ran on (R141): a next state, never a fault or a refusal. -/
theorem exec_next_complete (i : Instr) (s : State) : ∃ r, exec i s = .next (s.complete r) := by
  cases i <;> exact ⟨_, rfl⟩

/-- The parts of the state that no command writes (R156). -/
theorem State.complete_untouched (s : State) (r : CmdResult) :
    (s.complete r).params = s.params ∧ (s.complete r).fatal = s.fatal ∧ (s.complete r).pch = s.pch ∧
      (s.complete r).pcmd = s.pcmd ∧ (s.complete r).rstLow = s.rstLow ∧ (s.complete r).events = s.events ∧
      (s.complete r).busResp = s.busResp := by simp

end Sys2Proof.Machine
end

