-- ==== Sys2Proof/Laws/Bus.lean ====
section
/-! SUPPORT. What the address map names, and what each bus operation can do, said once. -/

namespace Sys2Proof.Machine

/-- B(c) + r names the register r of channel c (R85). -/
theorem regAt_chan (p : Params) (c r : Nat) (hc : c < p.nch) (hr : r < 0x80) :
    regAt p (0x100 + 0x80 * c + r) = .chan c (chanRegAt r) := by
  have h1 : ¬(0x100 + 0x80 * c + r < 0x100) := by omega
  have h2 : (0x100 + 0x80 * c + r - 0x100) / 0x80 = c := by omega
  have h3 : (0x100 + 0x80 * c + r - 0x100) % 0x80 = r := by omega
  simp only [regAt, h1, h2, h3, hc, if_true, if_false]

/-- B(c) names CFG of channel c (R85). -/
theorem regAt_cfg (p : Params) (c : Nat) (hc : c < p.nch) : regAt p (0x100 + 0x80 * c) = .chan c .cfg :=
  regAt_chan p c 0 hc (by decide)

/-- 0x40 + 16·k + 4·w names word w of CNT[k] (R85). -/
theorem regAt_cnt (p : Params) (k w : Nat) (hk : k < p.nctr) (h8 : p.nctr ≤ 8) (hw : w < 4) :
    regAt p (0x40 + 16 * k + 4 * w) = .cnt k w := by
  unfold regAt
  rw [if_pos (by omega), if_neg (by omega), if_neg (by omega), if_neg (by omega), if_neg (by omega),
    if_pos (by omega)]
  congr 1 <;> omega

/-- Above the channels the window is reserved (R82, R85). -/
theorem regAt_absent (p : Params) (off : Nat) (h : 0x100 + 0x80 * p.nch ≤ off) : regAt p off = .reserved := by
  unfold regAt; rw [if_neg (by omega), if_neg (by omega)]

theorem chanRegAt_iv (w : Nat) (h : w < 4) : chanRegAt (0x20 + 4 * w) = .iv w := by interval_cases w <;> rfl

theorem chanRegAt_din (w : Nat) (h : w < 4) : chanRegAt (0x40 + 4 * w) = .din w := by interval_cases w <;> rfl

theorem chanRegAt_dout (w : Nat) (h : w < 4) : chanRegAt (0x50 + 4 * w) = .dout w := by interval_cases w <;> rfl

/-- Word w of a block register is its four lanes, little-endian (R86). -/
theorem toNat_readLanes (x : Block) (w : Nat) :
    (readLanes x w).toNat =
      (lane x w 0).toNat + 256 * (lane x w 1).toNat + 65536 * (lane x w 2).toNat +
        16777216 * (lane x w 3).toNat := by
  unfold readLanes
  generalize lane x w 0 = a; generalize lane x w 1 = b; generalize lane x w 2 = c; generalize lane x w 3 = d
  have := a.isLt; have := b.isLt; have := c.isLt; have := d.isLt
  rw [BitVec.toNat_append, BitVec.toNat_append, BitVec.toNat_append,
    ← Nat.shiftLeft_add_eq_or_of_lt (by omega), ← Nat.shiftLeft_add_eq_or_of_lt (by omega),
    ← Nat.shiftLeft_add_eq_or_of_lt (by omega)]
  simp only [Nat.shiftLeft_eq]; omega

/-- The byte at position i after a write of word w (R46, R87). -/
theorem getD_writeLanes (b : Block) (w i : Nat) (v : Word) (hi : i < b.length) :
    (writeLanes b w v).getD i 0 = if 4 * w ≤ i ∧ i < 4 * w + 4 then wordByte v (i - 4 * w) else b.getD i 0 := by
  have hcase : i = 4 * w ∨ i = 4 * w + 1 ∨ i = 4 * w + 2 ∨ i = 4 * w + 3 ∨ ¬(4 * w ≤ i ∧ i < 4 * w + 4) := by omega
  rcases hcase with rfl | rfl | rfl | rfl | h
  · simp [writeLanes, hi]
  · simp [writeLanes, hi]
  · simp [writeLanes, hi]
  · simp [writeLanes, hi]
  · have h1 : ¬4 * w = i := by omega
    have h2 : ¬4 * w + 1 = i := by omega
    have h3 : ¬4 * w + 2 = i := by omega
    have h4 : ¬4 * w + 3 = i := by omega
    rw [if_neg h]
    simp [writeLanes, h1, h2, h3, h4]

theorem toNat_wordByte (v : Word) (i : Nat) : (wordByte v i).toNat = v.toNat / 256 ^ i % 256 := by
  simp [wordByte, Nat.shiftRight_eq_div_pow, Nat.pow_mul]

/-- A bus access changes the recorded answer, and the window only if it is a legal write while `rst_n` is high (R81, R84,
R290). -/
theorem State.access_cases (s : State) (a : BusAccess) :
    (a.legal = false ∧ s.access a = s.respond .error) ∨
      (a.legal = true ∧ a.write = false ∧
        s.access a = s.respond (.read (if s.rstLow then 0 else s.readWindow a.addr.toNat))) ∨
      (a.legal = true ∧ a.write = true ∧ s.rstLow = true ∧ s.access a = s.respond .written) ∨
      (a.legal = true ∧ a.write = true ∧ s.rstLow = false ∧
        s.access a = (s.writeWindow a.addr.toNat a.wdata).respond .written) := by
  unfold State.access
  cases hl : a.legal <;> cases hw : a.write <;> cases hr : s.rstLow <;> simp

/-- A channel register in the map belongs to a channel the instance has (R85). -/
theorem regAt_chan_lt (p : Params) (off c : Nat) (r : ChanReg) (h : regAt p off = .chan c r) : c < p.nch := by
  unfold regAt at h
  split at h
  · repeat' split at h
    all_goals cases h
  · split at h
    · cases h; assumption
    · cases h

/-- GCTRL is at offset 0x00C alone (R85). -/
theorem regAt_gctrl (p : Params) (off : Nat) (h : regAt p off = .gctrl) : off = 0x00C := by
  unfold regAt at h
  split at h
  · repeat' split at h
    all_goals first | assumption | cases h
  · split at h <;> cases h

/-- A window write is nothing, the soft reset, or one of the writes a channel's bank takes (R84). -/
theorem State.writeWindow_cases (s : State) (off : Nat) (v : Word) :
    s.writeWindow off v = s ∨
      (off = 0x00C ∧ v.getLsbD 0 = true ∧ s.writeWindow off v = s.doReset) ∨
      ∃ c, c < s.params.nch ∧
        (s.writeWindow off v = s.acceptCmd c v ∨ s.writeWindow off v = s.writeCfg c v ∨
          s.writeWindow off v = s.ignoreWrite c ∨
          s.writeWindow off v = s.setChan c ((s.chan c).ackStatus v) ∨
          s.writeWindow off v = s.setChan c ((s.chan c).setIrqen v) ∨
          (s.busy c = false ∧ ∃ b : Block,
            (b.length = (s.chan c).iv.length ∧ s.writeWindow off v = s.setChan c { s.chan c with iv := b }) ∨
              (b.length = (s.chan c).din.length ∧
                s.writeWindow off v = s.setChan c { s.chan c with din := b }))) := by
  unfold State.writeWindow
  cases hr : regAt s.params off with
  | chan c r =>
    have hc := regAt_chan_lt _ _ _ _ hr
    cases r with
    | cfg => exact .inr (.inr ⟨c, hc, .inr (.inl rfl)⟩)
    | cmd => exact .inr (.inr ⟨c, hc, .inl rfl⟩)
    | status => exact .inr (.inr ⟨c, hc, .inr (.inr (.inr (.inl rfl)))⟩)
    | irqen => exact .inr (.inr ⟨c, hc, .inr (.inr (.inr (.inr (.inl rfl))))⟩)
    | iv w =>
      cases hb : s.busy c with
      | true => exact .inr (.inr ⟨c, hc, .inr (.inr (.inl (by simp [State.writeReg, State.writeChan, hb])))⟩)
      | false =>
        exact .inr (.inr ⟨c, hc, .inr (.inr (.inr (.inr (.inr ⟨hb, _,
          .inl ⟨length_writeLanes _ w v, by simp [State.writeReg, State.writeChan, hb]⟩⟩))))⟩)
    | din w =>
      cases hb : s.busy c with
      | true => exact .inr (.inr ⟨c, hc, .inr (.inr (.inl (by simp [State.writeReg, State.writeChan, hb])))⟩)
      | false =>
        exact .inr (.inr ⟨c, hc, .inr (.inr (.inr (.inr (.inr ⟨hb, _,
          .inr ⟨length_writeLanes _ w v, by simp [State.writeReg, State.writeChan, hb]⟩⟩))))⟩)
    | state => exact .inl rfl
    | dout w => exact .inl rfl
    | reserved => exact .inl rfl
  | gctrl =>
    cases hv : v.getLsbD 0 with
    | true => exact .inr (.inl ⟨regAt_gctrl _ _ hr, rfl, if_pos hv⟩)
    | false => exact .inl (if_neg (by rw [hv]; decide))
  | id => exact .inl rfl
  | gstatus => exact .inl rfl
  | ctrvalid => exact .inl rfl
  | cnt k w => exact .inl rfl
  | reserved => exact .inl rfl

end Sys2Proof.Machine
end

