-- ==== Sys2Proof/Laws/Stream.lean ====
section
/-! SUPPORT. What the stream loop of CFB, OFB and CTR can do (R152), said once: on the bytes KS still holds, on a fresh KS, and
what it keeps whatever the segment. -/

namespace Sys2Proof.Machine

variable (p : Params) (slot : BitVec 8) (m : StreamMode) (d : Dir)

/-- The loop over a concatenation is the loop over the second part, from where the first left off (R152). -/
theorem streamBytes_append (r : StreamRegs) (a b : Block) :
    streamBytes p slot m d r (a ++ b) = streamBytes p slot m d (streamBytes p slot m d r a) b :=
  List.foldl_append ..

/-- Overwriting with nothing. -/
@[simp] theorem overwrite_nil (b : Block) (k : Nat) : overwrite b k [] = b := by simp [overwrite]

/-- Overwriting one byte and then the next ones is overwriting them all. -/
theorem overwrite_cons (b : Block) (k : Nat) (y : Byte) (ys : Block) (h : k < b.length) :
    overwrite (b.set k y) (k + 1) ys = overwrite b k (y :: ys) := by
  have ht : (b.set k y).take (k + 1) = b.take k ++ [y] := by
    rw [List.take_succ_eq_append_getElem (by simpa using h), List.take_set_of_le (le_refl k)]; simp
  have hd : (b.set k y).drop (k + 1 + ys.length) = b.drop (k + (ys.length + 1)) := by
    rw [List.drop_set_of_lt (by omega)]; congr 1; omega
  simp only [overwrite, ht, hd, List.length_cons, List.append_assoc, List.cons_append, List.nil_append]

/-- Overwriting a whole block. -/
theorem overwrite_all (b xs : Block) (h : xs.length = b.length) : overwrite b 0 xs = xs := by
  simp [overwrite, h]

/-- XOR with the bytes from position k on, one byte at a time. -/
theorem xorBlock_cons_drop (b : Byte) (seg ks : Block) (k : Nat) (h : k < ks.length) :
    xorBlock (b :: seg) (ks.drop k) = (b ^^^ ks.getD k 0) :: xorBlock seg (ks.drop (k + 1)) := by
  rw [List.drop_eq_getElem_cons h, xorBlock, List.zipWith_cons_cons, List.getD_eq_getElem _ _ h, ← xorBlock]

/-- The bytes that go back into CHAIN in CFB: the ciphertext, which is the output when encrypting and the input when
decrypting (R152, R211, R212). -/
abbrev feedback (d : Dir) (out seg : Block) : Block := if d = .encrypt then out else seg

/-- What the loop gives on a segment that KS can serve whole, with KS filled: no call, the XOR of the bytes, KPOS moved on, and in
CFB the ciphertext bytes in CHAIN (R152, R211). -/
abbrev servedBy (r : StreamRegs) (seg : Block) : StreamRegs :=
  let out := xorBlock seg (r.ks.drop r.kpos)
  { r with
    out := r.out ++ out
    chain := if m = .cfb then overwrite r.chain r.kpos (feedback d out seg) else r.chain
    kpos := (r.kpos + seg.length) % p.bs }

/-- Bytes used one by one from a filled KS. -/
theorem foldl_useByte (r : StreamRegs) (seg : Block) (hk : r.kpos < p.bs) (hlen : r.kpos + seg.length ≤ p.bs)
    (hks : r.ks.length = p.bs) (hch : r.chain.length = p.bs) :
    seg.foldl (useByte p m d) r = servedBy p m d r seg := by
  induction seg generalizing r with
  | nil => simp [servedBy, xorBlock, feedback, Nat.mod_eq_of_lt hk]
  | cons b rest ih =>
    simp only [List.length_cons] at hlen
    rw [List.foldl_cons]
    cases rest with
    | nil =>
      simp only [List.foldl_nil, servedBy, useByte, xorBlock_cons_drop b [] r.ks r.kpos (by omega)]
      congr 1
      cases m <;> cases d <;> simp [feedback, ← overwrite_cons _ _ _ _ (hch ▸ hk), xorBlock]
    | cons b' rest =>
      simp only [List.length_cons] at hlen
      have h1 : (r.kpos + 1) % p.bs = r.kpos + 1 := Nat.mod_eq_of_lt (by omega)
      rw [ih (useByte p m d r b) (by simp only [useByte, h1]; omega) (by simp only [useByte, h1, List.length_cons]; omega)
        (by simpa [useByte] using hks) (by cases m <;> simpa [useByte] using hch)]
      simp only [servedBy, useByte, h1, xorBlock_cons_drop b _ r.ks r.kpos (by omega), List.append_assoc,
        List.cons_append, List.nil_append, List.length_cons]
      have hk' : (r.kpos + 1 + (rest.length + 1)) % p.bs = (r.kpos + (rest.length + 1 + 1)) % p.bs := by congr 1; omega
      rw [hk']
      cases m <;> cases d <;> simp [feedback, overwrite_cons _ _ _ _ (hch ▸ hk)]

/-- With KPOS ≠ 0 and a segment that KS can serve, no byte refills (R152). -/
theorem streamBytes_held (r : StreamRegs) (seg : Block) (h0 : r.kpos ≠ 0 ∨ seg = []) (hk : r.kpos < p.bs)
    (hlen : r.kpos + seg.length ≤ p.bs) (hks : r.ks.length = p.bs) (hch : r.chain.length = p.bs) :
    streamBytes p slot m d r seg = servedBy p m d r seg := by
  rw [← foldl_useByte p m d r seg hk hlen hks hch]
  clear hks hch
  induction seg generalizing r with
  | nil => rfl
  | cons b rest ih =>
    have hne : r.kpos ≠ 0 := by simpa using h0
    simp only [List.length_cons] at hlen
    simp only [streamBytes, List.foldl_cons, streamByte, refillIfEmpty, if_neg hne]
    by_cases hr : rest = []
    · subst hr; rfl
    · have hpos : 0 < rest.length := List.length_pos_of_ne_nil hr
      have h1 : (r.kpos + 1) % p.bs = r.kpos + 1 := Nat.mod_eq_of_lt (by omega)
      exact ih (useByte p m d r b) (.inl (by simp [useByte, h1])) (by simp only [useByte, h1]; omega)
        (by simp only [useByte, h1]; omega)

/-- What a refill leaves has the block lengths it needs. -/
theorem length_refill (r : StreamRegs) (hch : r.chain.length = p.bs)
    (hct : r.ctr.length = p.bs) :
    (refill p slot m r).ks.length = p.bs ∧ (refill p slot m r).chain.length = p.bs ∧
      (refill p slot m r).ctr.length = p.bs := by
  cases m <;> simp [refill, hch, hct]

/-- From KPOS = 0, a segment of 1 to BS bytes refills once and is then served (R152). -/
theorem streamBytes_fresh (r : StreamRegs) (seg : Block) (hseg : seg ≠ []) (h0 : r.kpos = 0) (hbs : 2 ≤ p.bs)
    (hlen : seg.length ≤ p.bs) (hch : r.chain.length = p.bs) (hct : r.ctr.length = p.bs) :
    streamBytes p slot m d r seg = servedBy p m d (refill p slot m r) seg := by
  obtain ⟨hks', hch', -⟩ := length_refill p slot m r hch hct
  have hk' : (refill p slot m r).kpos = 0 := by cases m <;> simpa [refill] using h0
  rw [← foldl_useByte p m d (refill p slot m r) seg (by omega) (by omega) hks' hch']
  cases seg with
  | nil => exact absurd rfl hseg
  | cons b rest =>
    simp only [List.length_cons] at hlen
    simp only [streamBytes, List.foldl_cons, streamByte, refillIfEmpty, if_pos h0]
    have h1 : (useByte p m d (refill p slot m r) b).kpos = 1 := by
      simp only [useByte, hk']; exact Nat.mod_eq_of_lt (by omega)
    have hl : (useByte p m d (refill p slot m r) b).chain.length = p.bs := by cases m <;> simpa [useByte] using hch'
    rw [foldl_useByte p m d (useByte p m d (refill p slot m r) b) rest (by omega) (by omega) hks' hl]
    exact streamBytes_held p slot m d _ rest (.inl (by omega)) (by omega) (by omega) hks' hl

/-- A segment of 0 to BS bytes: the bytes KS still holds serve its first part, and if bytes are left, one refill serves them
(R152, R211). -/
theorem streamBytes_segment (r : StreamRegs) (seg : Block) (held : Nat)
    (hh : held = if r.kpos = 0 then 0 else min seg.length (p.bs - r.kpos)) (hk : r.kpos < p.bs) (hbs : 2 ≤ p.bs)
    (hlen : seg.length ≤ p.bs) (hks : r.ks.length = p.bs) (hch : r.chain.length = p.bs) (hct : r.ctr.length = p.bs) :
    streamBytes p slot m d r seg =
      if held = seg.length then servedBy p m d r seg
      else servedBy p m d (refill p slot m (servedBy p m d r (seg.take held))) (seg.drop held) := by
  by_cases h0 : r.kpos = 0
  · rw [if_pos h0] at hh
    subst hh
    have hz : servedBy p m d r (seg.take 0) = r := by
      cases r; simp_all [xorBlock, feedback]
    rw [hz, List.drop_zero]
    by_cases hs : seg = []
    · subst hs
      rw [List.length_nil, if_pos rfl]; exact streamBytes_held p slot m d r [] (.inr rfl) hk (by simp [h0]) hks hch
    · rw [if_neg (fun h => hs (List.length_eq_zero_iff.1 h.symm)), streamBytes_fresh p slot m d r seg hs h0 hbs hlen hch hct]
  · rw [if_neg h0] at hh
    by_cases he : held = seg.length
    · rw [if_pos he, streamBytes_held p slot m d r seg (.inl h0) hk (by omega) hks hch]
    · rw [if_neg he]
      have hval : held = p.bs - r.kpos := by omega
      have htl : (seg.take held).length = held := by simp; omega
      have hle : r.kpos + held = p.bs := by omega
      conv_lhs => rw [← List.take_append_drop held seg]
      rw [streamBytes_append, streamBytes_held p slot m d r (seg.take held) (.inl h0) hk (by omega) hks hch]
      have hchain : (servedBy p m d r (seg.take held)).chain.length = p.bs := by
        cases m <;> cases d <;> simp [feedback, hch, hks, overwrite] <;> omega
      refine streamBytes_fresh p slot m d _ (seg.drop held) ?_ ?_ hbs (by simp; omega) hchain hct
      · simp; omega
      · simp only [htl, hle, Nat.mod_self]

/-- In CTR the loop leaves CHAIN (R156, R231). -/
theorem streamBytes_ctr_chain (r : StreamRegs) (seg : Block) : (streamBytes p slot .ctr d r seg).chain = r.chain := by
  induction seg generalizing r with
  | nil => rfl
  | cons b rest ih =>
    refine (ih (streamByte p slot .ctr d r b)).trans ?_
    by_cases h : r.kpos = 0 <;> simp [streamByte, useByte, refillIfEmpty, refill, h]

/-- The loop keeps the lengths of its blocks and KPOS below BS, and gives one byte out for each byte in (R152, I2 of R59). -/
theorem streamBytes_keeps (r : StreamRegs) (seg : Block) (hk : r.kpos < p.bs) (hks : r.ks.length = p.bs)
    (hch : r.chain.length = p.bs) (hct : r.ctr.length = p.bs) :
    let t := streamBytes p slot m d r seg
    t.kpos = (r.kpos + seg.length) % p.bs ∧ t.ks.length = p.bs ∧ t.chain.length = p.bs ∧ t.ctr.length = p.bs ∧
      t.out.length = r.out.length + seg.length := by
  induction seg generalizing r with
  | nil => exact ⟨(Nat.mod_eq_of_lt hk).symm, hks, hch, hct, rfl⟩
  | cons b rest ih =>
    have hr : (refillIfEmpty p slot m r).ks.length = p.bs ∧ (refillIfEmpty p slot m r).chain.length = p.bs ∧
        (refillIfEmpty p slot m r).ctr.length = p.bs ∧ (refillIfEmpty p slot m r).kpos = r.kpos ∧
        (refillIfEmpty p slot m r).out = r.out := by
      unfold refillIfEmpty
      split
      · obtain ⟨h1, h2, h3⟩ := length_refill p slot m r hch hct
        refine ⟨h1, h2, h3, ?_, ?_⟩ <;> cases m <;> rfl
      · exact ⟨hks, hch, hct, rfl, rfl⟩
    obtain ⟨h1, h2, h3, h4, h5⟩ := hr
    obtain ⟨k1, k2, k3, k4, k5⟩ := ih (streamByte p slot m d r b) (Nat.mod_lt _ (by omega)) h1
      (by cases m <;> simpa [streamByte, useByte] using h2) h3
    have hk1 : (streamByte p slot m d r b).kpos = (r.kpos + 1) % p.bs := by simp only [streamByte, useByte, h4]
    have ho1 : (streamByte p slot m d r b).out.length = r.out.length + 1 := by simp [streamByte, useByte, h5]
    refine ⟨?_, k2, k3, k4, ?_⟩
    · refine k1.trans ?_
      rw [hk1, Nat.mod_add_mod, List.length_cons]; congr 1; omega
    · refine k5.trans ?_
      rw [ho1, List.length_cons]; omega

end Sys2Proof.Machine
end

