-- ==== Sys2Proof/Laws/Invariant.lean ====
section
/-! SUPPORT. How the shared operations keep the invariant of the block (R59): what every completion and every check does to it,
said once, so that a command's proof looks at its own channel only. -/

namespace Sys2Proof.Machine

/-- The executing channel of a state that meets the invariant meets its own. -/
theorem State.cur_inv (s : State) (h : s.Inv) : s.cur.Inv s.params :=
  h.2.2.2.1.2 _ (State.chan_mem s _ (h.2.2.2.1.1 ▸ h.2.2.2.2.1))

/-- So does every channel the instance has. -/
theorem State.chan_inv (s : State) (c : Nat) (h : s.Inv) (hc : c < s.params.nch) : (s.chan c).Inv s.params :=
  h.2.2.2.1.2 _ (State.chan_mem s _ (h.2.2.2.1.1 ▸ hc))

/-- The counter a channel selects exists (R38). -/
theorem State.ctrSel_lt (s : State) (h : s.Inv) : s.cur.ctrSel.toNat < s.cnt.length :=
  h.2.2.1.1 ▸ (State.cur_inv s h).2.1.2.1

/-- A selected counter is a block (R36). -/
theorem State.length_counter (s : State) (h : s.Inv) : (s.counter s.cur).length = s.params.bs := by
  apply h.2.2.1.2.1
  simp [State.counter, State.ctrSel_lt s h]

/-- A bus answer put on record keeps the invariant (R84). -/
theorem State.respond_inv (s : State) (r : BusResponse) (h : s.Inv) : (s.respond r).Inv := by
  obtain ⟨h1, h2, h3, h4, h5, h6, h7⟩ := h
  refine ⟨h1, h2, h3, h4, h5, h6, fun hl => ?_⟩
  have := h7 hl
  unfold State.HeldInReset at *
  simp only [State.respond]
  conv_lhs => rw [this]

/-- So does another queue of moves. -/
theorem State.events_inv (s : State) (es : List Event) (h : s.Inv) : State.Inv { s with events := es } := by
  obtain ⟨h1, h2, h3, h4, h5, h6, h7⟩ := h
  refine ⟨h1, h2, h3, h4, h5, h6, fun hl => ?_⟩
  have := h7 hl
  unfold State.HeldInReset at *
  conv_lhs => rw [this]

/-- So does a bank that meets its own invariant, with DONE and ERR clear if it is the busy one (R270). -/
theorem State.setChan_inv (s : State) (c : Nat) (ch : Channel) (h : s.Inv) (hr : s.rstLow = false)
    (hc : c < s.params.nch) (hch : ch.Inv s.params)
    (hd : s.gbusy = true → s.pch = c → ch.done = false ∧ ch.err = false) : (s.setChan c ch).Inv := by
  obtain ⟨h1, h2, h3, h4, h5, h6, -⟩ := h
  refine ⟨h1, h2, h3, ⟨by simpa using h4.1, fun x hm => ?_⟩, h5, fun hg => ?_, by simp [hr]⟩
  · rcases List.mem_or_eq_of_mem_set (by simpa using hm) with hm | rfl
    · exact h4.2 _ hm
    · exact hch
  · by_cases hp : s.pch = c
    · have e : (s.setChan c ch).cur = ch := by
        show (s.setChan c ch).chan s.pch = ch
        rw [hp]; exact s.chan_setChan_same _ _ (h4.1 ▸ hc)
      rw [e]; exact hd hg hp
    · have e : (s.setChan c ch).cur = s.cur := s.chan_setChan_ne _ _ _ hp
      rw [e]; exact h6 hg

/-- A completion keeps the invariant when the writes of the command keep their channel's and the counters' lengths (R141). -/
theorem State.complete_inv (s : State) (r : CmdResult) (h : s.Inv) (hr : s.rstLow = false)
    (hc : (s.outcome r).chan.Inv s.params)
    (hn : (s.outcome r).cnt.length = s.params.nctr ∧ ∀ b ∈ (s.outcome r).cnt, b.length = s.params.bs)
    (hv : (s.outcome r).ctrv.length = s.params.nctr) : (s.complete r).Inv := by
  obtain ⟨h1, h2, -, h4, h5, -, -⟩ := h
  refine ⟨h1, h2, ⟨hn.1, hn.2, hv⟩, ⟨by simpa using h4.1, fun ch hm => ?_⟩, h5, by simp, by simp [hr]⟩
  rcases List.mem_or_eq_of_mem_set (by simpa using hm) with hm | rfl
  · exact h4.2 _ hm
  · exact hc

/-- So does a completion of a command that writes its channel alone. -/
theorem State.writesChan_inv (s : State) (calls : List PrimCall) (ch : Channel) (h : s.Inv) (hr : s.rstLow = false)
    (hc : ch.Inv s.params) : (s.complete (s.writesChan calls ch)).Inv :=
  s.complete_inv _ h hr hc ⟨h.2.2.1.1, h.2.2.1.2.1⟩ h.2.2.1.2.2

/-- So does one that also writes its counter with a block. -/
theorem State.writesCounter_inv (s : State) (calls : List PrimCall) (ch : Channel) (v : Block) (h : s.Inv)
    (hr : s.rstLow = false) (hc : ch.Inv s.params) (hv : v.length = s.params.bs) :
    (s.complete (s.writesCounter calls ch v)).Inv := by
  refine s.complete_inv _ h hr hc ⟨by simpa [State.outcome, State.writesCounter] using h.2.2.1.1, fun b hb => ?_⟩
    h.2.2.1.2.2
  rcases List.mem_or_eq_of_mem_set hb with hm | rfl
  · exact h.2.2.1.2.1 _ hm
  · exact hv

/-- So does an error completion (R143). -/
theorem State.failed_inv (s : State) (calls : List PrimCall) (e : ErrCode) (h : s.Inv) (hr : s.rstLow = false) :
    (s.failed calls e).Inv := by
  obtain ⟨a, b, c, d⟩ := s.cur_inv h
  exact s.writesChan_inv calls { s.cur with err := true, errCode := some e, outLen := 0 } h hr
    ⟨a, ⟨b.1, b.2.1, b.2.2.1, Nat.zero_le _, by simp⟩, c, d⟩

/-- A command without checks of its own keeps the invariant if its effect does (R141). -/
theorem State.runPlain_inv (s : State) (body : Channel → CmdResult) (h : s.Inv) (hr : s.rstLow = false)
    (hb : s.fatal = false → (s.complete (body s.cur)).Inv) : (s.runPlain body).Inv := by
  cases hf : s.fatal
  · rw [State.runPlain_ok _ _ hf]; exact hb hf
  · rw [State.runPlain_fatal _ _ hf]; exact s.failed_inv _ _ h hr

/-- What passing the checks of a data command says (R144). -/
theorem dataCheck_passed (p : Params) (ch : Channel) (ctrLoaded : Bool) (op : DataOp) (m : Mode) (len : Nat)
    (h : dataCheck p ch ctrLoaded op m len = none) :
    (ch.bmv = true → ch.bmode = m) ∧ keyOk p ch.keySlot = true ∧ ivMissing ch ctrLoaded m = false ∧
      (bindsDir m = true → ch.dirv = true → ch.dir = op.dir) ∧ lenOk p.bs ch.cmip op m len = true := by
  unfold dataCheck at h
  iterate 5 (split at h; · cases h)
  simp_all

/-- A data command keeps the invariant if its effect does once the checks are passed (R144). -/
theorem State.runData_inv (s : State) (op : DataOp) (m : Mode) (len : Nat) (body : Channel → CmdResult) (h : s.Inv)
    (hr : s.rstLow = false)
    (hb : dataCheck s.params s.cur (s.ctrLoaded s.cur) op m len = none → (s.complete (body s.cur)).Inv) :
    (s.runData op m len body).Inv := by
  refine s.runPlain_inv _ h hr fun _ => ?_
  cases hc : dataCheck s.params s.cur (s.ctrLoaded s.cur) op m len with
  | none => exact hb hc
  | some e => exact s.failed_inv _ _ h hr

/-- The output write keeps a channel's invariant (R153). -/
theorem Channel.writeOut_inv (p : Params) (ch : Channel) (r : Block) (n : Nat) (h : ch.Inv p) (hn : n ≤ p.bs)
    (hr : n ≤ r.length) : (ch.writeOut p.bs r n).Inv p :=
  ⟨⟨h.1.1, h.1.2.1, by simp; omega, h.1.2.2.2⟩, ⟨h.2.1.1, h.2.1.2.1, h.2.1.2.2.1, hn, h.2.1.2.2.2.2⟩, h.2.2⟩

/-- A new chaining block keeps it (R49). -/
theorem Channel.chain_inv (p : Params) (ch : Channel) (x : Block) (h : ch.Inv p) (hx : x.length = p.bs) :
    Channel.Inv p { ch with chain := x } :=
  ⟨⟨h.1.1, h.1.2.1, h.1.2.2.1, hx, h.1.2.2.2.2⟩, h.2⟩

/-- So does closing a CMAC message (R246). -/
theorem Channel.closeMac_inv (p : Params) (ch : Channel) (x : Block) (h : ch.Inv p) (hx : x.length = p.bs) :
    Channel.Inv p { ch with chain := x, cmip := false } := by
  obtain ⟨a, b, c, d⟩ := Channel.chain_inv p ch x h hx
  exact ⟨a, b, ⟨c.1, c.2.1, Bool.false_ne_true.elim, c.2.2.2⟩, d⟩

/-- Binding keeps it when the channel is unbound or bound to the same mode (R146). -/
theorem Channel.commit_inv (p : Params) (ch : Channel) (m : Mode) (d : Dir) (h : ch.Inv p)
    (hm : ch.bmv = true → ch.bmode = m) : (ch.commit m d).Inv p := by
  obtain ⟨a, b, ⟨c1, c2, c3, c4, -⟩, e⟩ := h
  refine ⟨a, b, ⟨fun hi => ?_, ⟨c2.1, fun hk => ?_⟩, fun hc => ?_, fun hd => ?_, fun _ => rfl⟩, e⟩
  · obtain ⟨hv, hb⟩ := c1 hi; exact ⟨rfl, by rw [hm hv] at hb; exact hb⟩
  · obtain ⟨hv, hb⟩ := c2.2 hk; exact ⟨rfl, by rw [hm hv] at hb; exact hb⟩
  · obtain ⟨hv, hb⟩ := c3 hc; exact ⟨rfl, by rw [hm hv] at hb; exact hb⟩
  · cases hb : bindsDir m
    · simp only [Channel.commit_dirv, hb] at hd
      obtain ⟨hv, hb'⟩ := c4 hd
      rw [hm hv, hb] at hb'; cases hb'
    · exact ⟨rfl, hb⟩

/-- The chaining value and the masked last block of a message are blocks (R246). -/
theorem Channel.length_macChain (p : Params) (ch : Channel) (h : ch.Sized p) : (ch.macChain p.bs).length = p.bs := by
  unfold Channel.macChain
  split
  · exact h.2.2.2.1
  · exact List.length_replicate

theorem Channel.length_macFinal (p : Params) (ch : Channel) (len : Nat) (h : ch.Sized p) (hl : len ≤ p.bs) :
    (ch.macFinal p.bs len).length = p.bs := by
  have hm : (ch.macBlock p.bs len).length = p.bs := by
    unfold Channel.macBlock
    split
    · exact h.2.1
    · rename_i hne
      simp only [Channel.segment, List.length_append, List.length_take, List.length_singleton, List.length_replicate,
        h.2.1]
      omega
  have hk : (if len = p.bs then ch.k1 else ch.k2).length = p.bs := by
    split
    · exact h.2.2.2.2.2.1
    · exact h.2.2.2.2.2.2
  rw [Channel.macFinal, length_xorBlock, hm, hk, Nat.min_self]

/-- Deriving the subkeys keeps a channel's invariant when its key is valid (R242, R246). -/
theorem Channel.deriveSubkeys_inv (p : Params) (ch : Channel) (h : ch.Inv p) (hk : keyOk p ch.keySlot = true) :
    (ch.deriveSubkeys p).Inv p := by
  obtain ⟨⟨s1, s2, s3, s4, s5, -, -⟩, hl, hq, -⟩ := h
  exact ⟨⟨s1, s2, s3, s4, s5, by simp, by simp⟩, hl, hq, fun _ => ⟨hk, rfl, rfl⟩⟩

/-- So does the lazy derivation. -/
theorem Channel.withSubkeys_inv (p : Params) (ch : Channel) (h : ch.Inv p) (hk : keyOk p ch.keySlot = true) :
    (ch.withSubkeys p).Inv p := by
  unfold Channel.withSubkeys
  split
  · exact h
  · exact ch.deriveSubkeys_inv p h hk

/-- What the stream loop leaves in a channel keeps its invariant, KPOS included (R152, I2 of R59). -/
theorem Channel.afterStream_inv (p : Params) (ch : Channel) (m : StreamMode) (d : Dir) (len : Nat) (r : StreamRegs)
    (h : ch.Inv p) (hm : ch.bmv = true → ch.bmode = streamMode m) (hlen : len ≤ p.bs) (ho : len ≤ r.out.length)
    (hk : r.kpos < p.bs) (hks : r.ks.length = p.bs) (hch : r.chain.length = p.bs) :
    (ch.afterStream p.bs m d len r).Inv p := by
  obtain ⟨a, b, c, e⟩ := 
    Channel.commit_inv p _ (streamMode m) d
      (Channel.writeOut_inv p _ r.out len (Channel.chain_inv p ch r.chain h hch) hlen ho) hm
  refine ⟨⟨a.1, a.2.1, a.2.2.1, a.2.2.2.1, hks, a.2.2.2.2.2⟩, b, ⟨c.1, ⟨hk, fun _ => ⟨rfl, ?_⟩⟩, c.2.2⟩, e⟩
  cases m <;> simp [Channel.afterStream, streamMode]

/-- So a stream segment that passed its checks keeps the invariant of the block (R152). -/
theorem State.streamSeg_inv (s : State) (m : StreamMode) (d : Dir) (len : Nat) (h : s.Inv) (hr : s.rstLow = false)
    (hm : s.cur.bmv = true → s.cur.bmode = streamMode m) (hlen : len ≤ s.params.bs) :
    (s.complete (s.streamSeg m d len s.cur)).Inv := by
  have hc := s.cur_inv h
  obtain ⟨hs, -, hq, -⟩ := hc
  have hseg : (s.cur.segment len).length = len := by simp [Channel.segment, hs.2.1, hlen]
  obtain ⟨hk, hks, hch, hct, ho⟩ := streamBytes_keeps s.params s.cur.keySlot m d (s.streamStart s.cur)
    (s.cur.segment len) hq.2.1.1 hs.2.2.2.2.1 hs.2.2.2.1 (s.length_counter h)
  have hk' := hk.trans_lt (Nat.mod_lt _ (Nat.lt_of_le_of_lt (Nat.zero_le _) hq.2.1.1))
  have ho' : len ≤ (streamBytes s.params s.cur.keySlot m d (s.streamStart s.cur) (s.cur.segment len)).out.length := by
    rw [ho, hseg]; exact Nat.le_add_left ..
  have hch' := Channel.afterStream_inv s.params s.cur m d len _ (s.cur_inv h) hm hlen ho' hk' hks hch
  cases m
  · exact s.writesChan_inv _ _ h hr hch'
  · exact s.writesChan_inv _ _ h hr hch'
  · exact s.writesCounter_inv _ _ _ h hr hch' hct

end Sys2Proof.Machine
end

