-- ==== Sys2Proof/Laws/PerInstr.lean ====
section
/-! SUPPORT. Statements about every command as syntax, one lemma per constructor. -/

namespace Sys2Proof.Laws.RowMatch

/-- The word of a well-formed command matches the command's own row of the opcode table, and its operands fill the bits the mask
leaves (R114, R117). -/
def Statement (i : Instr) : Prop :=
  i.WellFormed →
    encode i &&& (Machine.opcodeRow i).2 = (Machine.opcodeRow i).1 ∧
      ∀ op m len, i.dataForm = some (op, m, len) → field (encode i) 8 5 = len

/-- Every row with a LEN field, for the 32 values of the field. -/
theorem of_len (mk : Nat → Instr) (op : DataOp) (m : Mode)
    (hf : ∀ n, (mk n).dataForm = some (op, m, n)) (hw : ∀ n, (mk n).WellFormed → n < 32)
    (hm : ∀ n < 32, encode (mk n) &&& (Machine.opcodeRow (mk n)).2 = (Machine.opcodeRow (mk n)).1 ∧
      field (encode (mk n)) 8 5 = n) (n : Nat) : Statement (mk n) := by
  intro h
  obtain ⟨h1, h2⟩ := hm n (hw n h)
  refine ⟨h1, fun op' m' len h' => ?_⟩
  rw [hf] at h'; cases h'; exact h2

theorem ldivCbc : Statement .ldivCbc := fun _ => ⟨by decide, by simp [Instr.dataForm]⟩
theorem ldivCfb : Statement .ldivCfb := fun _ => ⟨by decide, by simp [Instr.dataForm]⟩
theorem ldivOfb : Statement .ldivOfb := fun _ => ⟨by decide, by simp [Instr.dataForm]⟩
theorem ldivCtr : Statement .ldivCtr := fun _ => ⟨by decide, by simp [Instr.dataForm]⟩
theorem chrst : Statement .chrst := fun _ => ⟨by decide, by simp [Instr.dataForm]⟩
theorem encEcb (len : Nat) : Statement (.encEcb len) :=
  of_len .encEcb _ _ (fun _ => rfl) (fun _ h => of_decide_eq_true h) (by decide) len
theorem decEcb (len : Nat) : Statement (.decEcb len) :=
  of_len .decEcb _ _ (fun _ => rfl) (fun _ h => of_decide_eq_true h) (by decide) len
theorem encfEcb (len : Nat) : Statement (.encfEcb len) :=
  of_len .encfEcb _ _ (fun _ => rfl) (fun _ h => of_decide_eq_true h) (by decide) len
theorem decfEcb (len : Nat) : Statement (.decfEcb len) :=
  of_len .decfEcb _ _ (fun _ => rfl) (fun _ h => of_decide_eq_true h) (by decide) len
theorem encCbc (len : Nat) : Statement (.encCbc len) :=
  of_len .encCbc _ _ (fun _ => rfl) (fun _ h => of_decide_eq_true h) (by decide) len
theorem decCbc (len : Nat) : Statement (.decCbc len) :=
  of_len .decCbc _ _ (fun _ => rfl) (fun _ h => of_decide_eq_true h) (by decide) len
theorem encfCbc (len : Nat) : Statement (.encfCbc len) :=
  of_len .encfCbc _ _ (fun _ => rfl) (fun _ h => of_decide_eq_true h) (by decide) len
theorem decfCbc (len : Nat) : Statement (.decfCbc len) :=
  of_len .decfCbc _ _ (fun _ => rfl) (fun _ h => of_decide_eq_true h) (by decide) len
theorem encCfb (len : Nat) : Statement (.encCfb len) :=
  of_len .encCfb _ _ (fun _ => rfl) (fun _ h => of_decide_eq_true h) (by decide) len
theorem decCfb (len : Nat) : Statement (.decCfb len) :=
  of_len .decCfb _ _ (fun _ => rfl) (fun _ h => of_decide_eq_true h) (by decide) len
theorem encOfb (len : Nat) : Statement (.encOfb len) :=
  of_len .encOfb _ _ (fun _ => rfl) (fun _ h => of_decide_eq_true h) (by decide) len
theorem decOfb (len : Nat) : Statement (.decOfb len) :=
  of_len .decOfb _ _ (fun _ => rfl) (fun _ h => of_decide_eq_true h) (by decide) len
theorem encCtr (len : Nat) : Statement (.encCtr len) :=
  of_len .encCtr _ _ (fun _ => rfl) (fun _ h => of_decide_eq_true h) (by decide) len
theorem decCtr (len : Nat) : Statement (.decCtr len) :=
  of_len .decCtr _ _ (fun _ => rfl) (fun _ h => of_decide_eq_true h) (by decide) len
theorem derive : Statement .derive := fun _ => ⟨by decide, by simp [Instr.dataForm]⟩
theorem macuCmac (len : Nat) : Statement (.macuCmac len) :=
  of_len .macuCmac _ _ (fun _ => rfl) (fun _ h => of_decide_eq_true h) (by decide) len
theorem macfCmac (len : Nat) : Statement (.macfCmac len) :=
  of_len .macfCmac _ _ (fun _ => rfl) (fun _ h => of_decide_eq_true h) (by decide) len

end Sys2Proof.Laws.RowMatch
end

