-- ==== Sys2Proof/Laws/Step.lean ====
section
/-! SUPPORT. What a step does with the queue of moves, and how runs unfold into steps. -/

namespace Sys2Proof.Machine

/-- A run's first step. -/
theorem run_succ_of_step (k : Nat) (s t : State) (h : step s = .next t) :
    Sys2Proof.core.run (k + 1) s = Sys2Proof.core.run k t := by
  have h' : Sys2Proof.core.step s = .next t := h
  simp only [Host.Core.run, h']

/-- The engine's turn is a completion, or nothing when no command is pending or `rst_n` is low (R141, R307). -/
theorem engineTurn_cases (s : State) :
    (s.engineReady = true ∧ ∃ r, engineTurn s = .next (s.complete r)) ∨
      (s.engineReady = false ∧ engineTurn s = .next s) := by
  unfold engineTurn
  cases hr : s.engineReady with
  | false => exact .inr ⟨rfl, rfl⟩
  | true =>
    refine .inl ⟨rfl, ?_⟩
    simp only [if_true]
    split
    · exact exec_next_complete _ s
    · exact ⟨_, rfl⟩

/-- A window write leaves the queue of moves. -/
theorem State.writeWindow_events (s : State) (off : Nat) (v : Word) : (s.writeWindow off v).events = s.events := by
  rcases s.writeWindow_cases off v with h | ⟨-, -, h⟩ | ⟨c, -, h | h | h | h | h | ⟨-, b, ⟨-, h⟩ | ⟨-, h⟩⟩⟩ <;> rw [h] <;>
    try rfl
  · unfold State.acceptCmd; split <;> rfl
  · unfold State.writeCfg; split <;> rfl

/-- A bus access leaves the queue of moves. -/
theorem State.access_events (s : State) (a : BusAccess) : (s.access a).events = s.events := by
  rcases s.access_cases a with ⟨-, h⟩ | ⟨-, -, h⟩ | ⟨-, -, -, h⟩ | ⟨-, -, -, h⟩ <;> rw [h] <;> try rfl
  exact s.writeWindow_events _ _

/-- A step uses up the oldest move and no other. -/
theorem step_events (s t : State) (h : step s = .next t) : t.events = s.events.tail := by
  have he : ∀ s t : State, engineTurn s = .next t → t.events = s.events := by
    intro s t h
    rcases engineTurn_cases s with ⟨-, r, h'⟩ | ⟨-, h'⟩ <;> rw [h'] at h <;> cases h <;> rfl
  simp only [step, nextMove] at h
  split at h
  · rename_i hn; rw [he _ _ h, hn]; rfl
  · rename_i e rest hn
    rw [hn]
    cases e with
    | engine => exact he _ _ h
    | access a => simp only [takeEvent] at h; cases h; exact State.access_events _ _
    | resetPin low => simp only [takeEvent] at h; cases h; unfold State.resetEdge; split <;> rfl

end Sys2Proof.Machine
end

