-- ==== Sys2Proof/Tests/Slice0.lean ====
section
/-! SUPPORT. Tests: expected values from 95_test_vectors.md (section named at each), each about one step, and a witness for the
hypotheses of every obligation that has any. -/

namespace Sys2Proof.Tests

open Sys2Proof.Machine

/-! ## Well-formedness and the encoding (95 section 2.2) -/

/-- LEN is 5 bits: 31 is the largest that fits (R113). -/
theorem test_wellformed_len :
    ([Instr.encEcb 31, .decEcb 31, .encfEcb 31, .decfEcb 31, .encCbc 31, .decCbc 31, .encfCbc 31, .decfCbc 31,
      .encCfb 31, .decCfb 31, .encOfb 31, .decOfb 31, .encCtr 31, .decCtr 31, .macuCmac 31, .macfCmac 31, .ldivCbc,
      .ldivCfb, .ldivOfb, .ldivCtr, .chrst, .derive].all Instr.wf) = true ∧
    ([Instr.encEcb 32, .decEcb 32, .encfEcb 32, .decfEcb 32, .encCbc 32, .decCbc 32, .encfCbc 32, .decfCbc 32,
      .encCfb 32, .decCfb 32, .encOfb 32, .decOfb 32, .encCtr 32, .decCtr 32, .macuCmac 32, .macfCmac 32].any
        Instr.wf) = false := by decide

/-- R111, R112, R117: LDIV is OP 1 with MODE 1 to 4. -/
theorem test_decode_ldiv :
    decode 0x00000011 = .ok .ldivCbc ∧ decode 0x00000021 = .ok .ldivCfb ∧ decode 0x00000031 = .ok .ldivOfb ∧
      decode 0x00000041 = .ok .ldivCtr := by decide

/-- CHRST is OP 9, DERIVE is OP 8. -/
theorem test_decode_chrst_derive : decode 0x00000009 = .ok .chrst ∧ decode 0x00000008 = .ok .derive := by decide

/-- MODE 0: ENC, DEC, ENCF and DECF are OP 2 to 5. -/
theorem test_decode_ecb :
    decode 0x00000802 = .ok (.encEcb 8) ∧ decode 0x00000703 = .ok (.decEcb 7) ∧ decode 0x00000304 = .ok (.encfEcb 3) ∧
      decode 0x00000805 = .ok (.decfEcb 8) := by decide

/-- MODE 1. -/
theorem test_decode_cbc :
    decode 0x00000812 = .ok (.encCbc 8) ∧ decode 0x00000813 = .ok (.decCbc 8) ∧ decode 0x00000214 = .ok (.encfCbc 2) ∧
      decode 0x00000815 = .ok (.decfCbc 8) := by decide

/-- MODE 2, 3 and 4. -/
theorem test_decode_stream :
    decode 0x00000322 = .ok (.encCfb 3) ∧ decode 0x00000823 = .ok (.decCfb 8) ∧ decode 0x00000332 = .ok (.encOfb 3) ∧
      decode 0x00000633 = .ok (.decOfb 6) ∧ decode 0x00001042 = .ok (.encCtr 16) ∧
      decode 0x00000643 = .ok (.decCtr 6) := by decide

/-- MODE 5: MACU is OP 6, MACF is OP 7. -/
theorem test_decode_cmac :
    decode 0x00000856 = .ok (.macuCmac 8) ∧ decode 0x00000457 = .ok (.macfCmac 4) := by decide

/-- The illegal words of 95 section 2.2, each by the name of its case of R115. -/
theorem test_decode_illegal :
    decode 0x00000882 = .error .reservedBits ∧ decode 0x00002802 = .error .reservedBits ∧
      decode 0x00000001 = .error .ldivMode ∧ decode 0x00000811 = .error .lenNotZero ∧
      decode 0x00000324 = .error .paddingMode ∧ decode 0x00000852 = .error .cmacMode ∧
      decode 0x00000806 = .error .macMode ∧ decode 0x00000862 = .error .reservedMode ∧
      decode 0x0000000A = .error .reservedOp ∧ decode 0x00000018 = .error .modeNotZero := by decide

/-- The encoder writes the words of 95 section 2.2 (R117). -/
theorem test_encode :
    encode .ldivCbc = 0x00000011 ∧ encode .chrst = 0x00000009 ∧ encode .derive = 0x00000008 ∧
      encode (.encEcb 8) = 0x00000802 ∧ encode (.decfCbc 8) = 0x00000815 ∧ encode (.encCfb 3) = 0x00000322 ∧
      encode (.decOfb 6) = 0x00000633 ∧ encode (.encCtr 16) = 0x00001042 ∧ encode (.macuCmac 8) = 0x00000856 ∧
      encode (.macfCmac 4) = 0x00000457 := by decide

/-- The host's view of the decoder. -/
theorem test_decodeTableWord :
    decodeTableWord 32 0x00000802 = some (.encEcb 8) ∧ decodeTableWord 32 0x0000000A = none ∧
      decodeTableWord 32 0x100000802 = none := by decide

/-- The host's placement: the very next step from reset runs the placed command, here ENC.ECB 7, which ends with code 3
(V2.9). -/
theorem test_withFetchWord :
    (match step (State.reset.withFetchWord 32 0x00000702) with
      | .next t => some ((t.cur.statusWord false), t.gbusy)
      | .fault _ => none
      | .refused _ => none) = some (0x00000033, false) := by decide

/-! ## The block operations -/

/-- 46_ctr.md R230 and 95 section 2.7. -/
theorem test_inc :
    inc (zeros 8) = blkOf 8 1 ∧ inc (blkOf 8 0xFF) = blkOf 8 0x100 ∧ inc (blkOf 8 0xFFFFFFFF) = blkOf 8 0x100000000 ∧
      inc (List.replicate 16 0xFF) = zeros 16 := by decide

/-- 95 section 2.8: a set high bit reduces with 0x1B for 8 bytes and 0x87 for 16. -/
theorem test_dbl :
    dbl (blkOf 8 0xF0E1D2C3B4A59687) = blkOf 8 0xE1C3A587694B2D15 ∧
      dbl (blkOf 8 0x0A6A97970F1C927F) = blkOf 8 0x14D52F2E1E3924FE ∧
      dbl (blkOf 16 0xF0E1D2C3B4A59687F0E1D2C3B4A59687) = blkOf 16 0xE1C3A587694B2D0FE1C3A587694B2D89 := by decide

/-- 95 section 2.3.3: the six unpadding cases. -/
theorem test_unpad :
    unpad 8 (blkOf 8 0x4142434445464701) = some (blkOf 8 0x4142434445464700, 7) ∧
      unpad 8 (blkOf 8 0x4142434445460202) = some (blkOf 8 0x4142434445460000, 6) ∧
      unpad 8 (blkOf 8 0x4142434445464700) = none ∧ unpad 8 (blkOf 8 0x4142434445464709) = none ∧
      unpad 8 (blkOf 8 0x4142434445460203) = none ∧ unpad 8 (blkOf 8 0x4142434445464708) = none := by decide


/-! ## One step of each command, under TOY8 (95 sections 2.3 to 2.9) -/

/-- TOY8 (95 section 2.1). -/
def toy8 : Params := { Params.tcfg with prim := .adder 0xF0E1D2C3B4A59687 }

/-- TOY16 (95 section 2.1). -/
def toy16 : Params :=
  { Params.tcfg with bs := 16, primBs := 16, prim := .adder 0xF0E1D2C3B4A59687F0E1D2C3B4A59687 }

/-- R95: byte 0 travels in the most significant lane of `prim_din` and of `prim_dout`, and `prim_op` is 1 for a decryption. The
call is the first of V2.4. -/
theorem test_primitive_port :
    primDin 8 (encCall 0 (blkOf 8 0x4E6E75236D762673)) = 0x4E6E75236D762673 ∧
      primDout toy8 (encCall 0 (blkOf 8 0x4E6E75236D762673)) = 0x3F5047E7221BBCFA ∧
      primDout toy8 (decCall 0 (blkOf 8 0x3F5047E7221BBCFA)) = 0x4E6E75236D762673 ∧
      primOpBit (encCall 0 (zeros 8)) = false ∧ primOpBit (decCall 0 (zeros 8)) = true := by decide

/-- The IV of 95 sections 2.4 to 2.6. -/
def iv8 : Block := blkOf 8 0x0001020304050607

/-- The reset state of p with channel 0 changed. -/
def on (p : Params) (f : Channel → Channel) : State := (State.resetFor p).setChan 0 (f (Channel.reset p 0))

/-- The state one step after a word is placed. -/
def after (s : State) (w : Word) : Option State :=
  match step (s.placeCommand w) with
  | .next t => some t
  | .fault _ => none
  | .refused _ => none

/-- DOUT, STATUS, STATE and CHAIN of channel 0 after one step. -/
def shown (s : State) (w : Word) : Option (Block × Word × Word × Block) :=
  (after s w).map fun t => (t.cur.dout, t.cur.statusWord (t.busy 0), t.cur.stateWord, t.cur.chain)

/-- V2.4 row 1. -/
theorem test_ldivCbc :
    shown (on toy8 fun ch => { ch with iv := iv8 }) 0x11 = some (zeros 8, 0x001, 0x148, iv8) := by decide

/-- V2.5.1 row 1. -/
theorem test_ldivCfb :
    shown (on toy8 fun ch => { ch with iv := iv8 }) 0x21 = some (zeros 8, 0x001, 0x248, iv8) := by decide

/-- V2.6.1 row 1, and the rebinding of 95 section 2.9's last list: a channel STREAMING in CBC. -/
theorem test_ldivOfb :
    shown (on toy8 fun ch => { ch with iv := iv8, bmv := true, bmode := .cbc, st := true, dirv := true, ivv := true })
      0x31 = some (zeros 8, 0x001, 0x348, iv8) := by decide

/-- V2.7 row 1: CNT[0] and CTRVALID, and IVV stays 0. -/
theorem test_ldivCtr :
    (after (on toy8 fun ch => { ch with iv := blkOf 8 0xFFFFFFFFFFFFFFFE }) 0x41).map
      (fun t => (t.cnt, t.readWindow 0x008, t.cur.stateWord)) =
    some ([blkOf 8 0xFFFFFFFFFFFFFFFE, zeros 8], 1, 0x440) := by decide

/-- R185 and program P4: CHRST clears the context and keeps WIGN, IV and DIN. -/
theorem test_chrst :
    (after (on toy8 fun ch =>
        { ch with
          iv := iv8, din := iv8, dout := iv8, chain := iv8, bmv := true, bmode := .cfb, st := true, dirv := true
          ivv := true, kpos := 3, wign := true })
        0x09).map (fun t => (t.cur.stateWord, t.cur.statusWord false, t.cur.chain, t.cur.dout, t.cur.din)) =
    some (0, 0x009, zeros 8, zeros 8, iv8) := by decide

/-- V2.3.1 row 2. -/
theorem test_encEcb :
    shown (on toy8 fun ch => { ch with din := List.replicate 8 0xFF }) 0x802 =
      some (blkOf 8 0xF0E1D2C3B4A59686, 0x801, 0x041, zeros 8) := by decide

/-- V2.9: ENC.ECB 7 is InvalidLength; nothing is called. -/
theorem test_encEcb_len :
    (after (on toy8 id) 0x702).map (fun t => (t.cur.statusWord false, t.cur.stateWord, t.primLog)) =
      some (0x033, 0x000, []) := by decide

/-- V2.3.1 row 3. -/
theorem test_decEcb :
    shown (on toy8 fun ch => { ch with din := blkOf 8 0x0123456789ABCDEF }) 0x803 =
      some (blkOf 8 0x104172A3D5063768, 0x801, 0x041, zeros 8) := by decide

/-- V2.3.2 row 4: bytes of DIN beyond LEN do not matter. -/
theorem test_encfEcb :
    shown (on toy8 fun ch => { ch with din := blkOf 8 0x4142439999999999 }) 0x304 =
      some (blkOf 8 0x322415C8B9AA9B8C, 0x801, 0x041, zeros 8) := by decide

/-- V2.3.2 row 6. -/
theorem test_decfEcb :
    shown (on toy8 fun ch => { ch with din := blkOf 8 0x322415C8B9AA9B8C }) 0x805 =
      some (blkOf 8 0x4142430000000000, 0x301, 0x041, zeros 8) := by decide

/-- V2.3.3 row 6: code 4 after one D call; DOUT and STATE stay. -/
theorem test_decfEcb_bad :
    (after (on toy8 fun ch => { ch with din := blkOf 8 0x32241607F9EBDD8F, dout := iv8 }) 0x805).map
      (fun t => (t.cur.statusWord false, t.cur.stateWord, t.cur.dout, t.primLog)) =
    some (0x043, 0x000, iv8, [⟨.decrypt, 0, blkOf 8 0x32241607F9EBDD8F⟩]) := by decide

/-- A channel after LDIV in mode m with the IV of 95 section 2. -/
def loaded (m : Mode) (ch : Channel) : Channel := Channel.loadChain { ch with iv := iv8 } m

/-- V2.4 row 2. -/
theorem test_encCbc :
    shown (on toy8 fun ch => { loaded .cbc ch with din := blkOf 8 0x4E6F772069732074 }) 0x812 =
      some (blkOf 8 0x3F5047E7221BBCFA, 0x801, 0x14B, blkOf 8 0x3F5047E7221BBCFA) := by decide

/-- V2.9: without LDIV, MissingIV, before the length is looked at. -/
theorem test_encCbc_missingIv : shown (on toy8 id) 0x712 = some (zeros 8, 0x023, 0x000, zeros 8) := by decide

/-- V2.4 row 5. -/
theorem test_decCbc :
    shown (on toy8 fun ch => { loaded .cbc ch with din := blkOf 8 0x3F5047E7221BBCFA }) 0x813 =
      some (blkOf 8 0x4E6F772069732074, 0x801, 0x14F, blkOf 8 0x3F5047E7221BBCFA) := by decide

/-- V2.9: DirectionMismatch wins over InvalidLength. -/
theorem test_decCbc_direction :
    shown (on toy8 fun ch => (loaded .cbc ch).commit .cbc .encrypt) 0x713 = some (zeros 8, 0x063, 0x14B, iv8) := by decide

/-- V2.4 row 3. -/
theorem test_encfCbc :
    shown (on toy8 fun ch =>
      { (loaded .cbc ch).commit .cbc .encrypt with chain := blkOf 8 0x3F5047E7221BBCFA, din := blkOf 8 0x6865000000000000 })
      0x214 = some (blkOf 8 0x481714A4D8C35183, 0x801, 0x14B, blkOf 8 0x481714A4D8C35183) := by decide

/-- 95 section 2.11, BS = 16. -/
theorem test_encfCbc_16 :
    (after (on toy16 fun ch =>
      { Channel.loadChain { ch with iv := blkOf 16 0x000102030405060708090A0B0C0D0E0F } .cbc with
        din := blkOf 16 0x68656C6C6F0000000000000000000000 }) 0x514).map
        (fun t => (t.cur.dout, t.cur.statusWord false)) =
      some (blkOf 16 0x594641331FB3A393F3E3D3C3BBAB9B8B, 0x1001) := by decide

/-- V2.4 row 6. -/
theorem test_decfCbc :
    shown (on toy8 fun ch =>
      { (loaded .cbc ch).commit .cbc .decrypt with chain := blkOf 8 0x3F5047E7221BBCFA, din := blkOf 8 0x481714A4D8C35183 })
      0x815 = some (blkOf 8 0x6865000000000000, 0x201, 0x14F, blkOf 8 0x481714A4D8C35183) := by decide

/-- V2.5.1 row 3: a segment across a block boundary. -/
theorem test_encCfb :
    (after (on toy8 fun ch =>
        { (loaded .cfb ch).commit .cfb .encrypt with
          din := blkOf 8 0x6C6F2C2073747265, chain := blkOf 8 0xB887B80304050607, ks := blkOf 8 0xF0E2D4C6B8AA9C8E
          kpos := 3 }) 0x822).map
      (fun t => (t.cur.dout, t.cur.chain, t.cur.ks, t.cur.stateWord, t.primLog)) =
    some (blkOf 8 0xAAD786BCFDDD1BEE, blkOf 8 0xDD1BEEAAD786BCFD, blkOf 8 0xA9698B6E8C2C5384, 0x0003024B,
      [⟨.encrypt, 0, blkOf 8 0xB887B8AAD786BCFD⟩]) := by decide

/-- V2.5.3: LEN 0 commits the direction without a call. -/
theorem test_encCfb_empty :
    (after (on toy8 (loaded .cfb)) 0x022).map (fun t => (t.cur.statusWord false, t.cur.stateWord, t.primLog)) =
      some (0x001, 0x0000024B, []) := by decide

/-- V2.5.2 row 2: the feedback is the input. -/
theorem test_decCfb :
    (after (on toy8 fun ch =>
        { (loaded .cfb ch).commit .cfb .decrypt with
          din := blkOf 8 0xDD1BEE0FE10D0000, chain := blkOf 8 0xB887B8AAD786BCFD, ks := blkOf 8 0xF0E2D4C6B8AA9C8E })
        0x623).map (fun t => (t.cur.dout, t.cur.chain, t.cur.stateWord)) =
    some (blkOf 8 0x747265616D210000, blkOf 8 0xDD1BEE0FE10DBCFD, 0x0006024F) := by decide

/-- V2.6.1 row 3. -/
theorem test_encOfb :
    (after (on toy8 fun ch =>
        { (loaded .ofb ch).commit .ofb .encrypt with
          din := blkOf 8 0x6C6F2C2073747265, chain := blkOf 8 0xF0E2D4C6B8AA9C8E, ks := blkOf 8 0xF0E2D4C6B8AA9C8E
          kpos := 3 }) 0x832).map (fun t => (t.cur.dout, t.cur.chain, t.cur.ks, t.cur.stateWord)) =
    some (blkOf 8 0xAAD786BCFD95B6C2, blkOf 8 0xE1C4A78A6D503315, blkOf 8 0xE1C4A78A6D503315, 0x0003034B) := by decide

/-- V2.6.2: the second segment of a decryption calls E. -/
theorem test_decOfb :
    (after (on toy8 fun ch =>
        { (loaded .ofb ch).commit .ofb .decrypt with
          din := blkOf 8 0x95B6C2EB00710000, chain := blkOf 8 0xF0E2D4C6B8AA9C8E, ks := blkOf 8 0xF0E2D4C6B8AA9C8E })
        0x633).map (fun t => (t.cur.dout, t.cur.stateWord, t.primLog)) =
    some (blkOf 8 0x747265616D210000, 0x0006034F, [⟨.encrypt, 0, blkOf 8 0xF0E2D4C6B8AA9C8E⟩]) := by decide

/-- A reset state of TOY8 with CNT[k] loaded and channel 0 bound to CTR. -/
def counting (v : Nat) (f : Channel → Channel) : State :=
  { on toy8 (fun ch => f { ch with bmv := true, bmode := .ctr }) with cnt := [blkOf 8 v, zeros 8], ctrv := [true, false] }

/-- V2.7 row 3: the counter is used and then wraps. -/
theorem test_encCtr :
    (after (counting 0xFFFFFFFFFFFFFFFF fun ch => { ch with st := true, din := blkOf 8 0x6D6F646521000000 }) 0x542).map
      (fun t => (t.cur.dout, t.cnt, t.cur.stateWord)) =
    some (blkOf 8 0x9D8EB6A695000000, [zeros 8, zeros 8], 0x00050441) := by decide

/-- V2.9: CTRVALID[CTR_SEL] = 0 is MissingIV. -/
theorem test_encCtr_missing : shown (on toy8 id) 0x842 = some (zeros 8, 0x023, 0x000, zeros 8) := by decide

/-- V2.7's decryption, with the counter that channel 0 selects. -/
theorem test_decCtr :
    (after (counting 0xFFFFFFFFFFFFFFFE fun ch => { ch with din := blkOf 8 0x938EA7ADC0C0E4A5 }) 0x843).map
      (fun t => (t.cur.dout, t.cnt, t.cur.stateWord)) =
    some (blkOf 8 0x636F756E74657220, [blkOf 8 0xFFFFFFFFFFFFFFFF, zeros 8], 0x00000441) := by decide

/-- V2.8.1. -/
theorem test_derive :
    (after (on toy8 id) 0x008).map (fun t => (t.cur.statusWord false, t.cur.stateWord, t.cur.k1, t.cur.k2)) =
      some (0x001, 0x010, blkOf 8 0xE1C3A587694B2D15, blkOf 8 0xC3874B0ED2965A31) := by decide

/-- V2.9: DERIVE checks the key. -/
theorem test_derive_key :
    (after (on toy8 fun ch => { ch with keySlot := 1 }) 0x008).map
      (fun t => (t.cur.statusWord false, t.cur.stateWord, t.primLog)) = some (0x013, 0x000, []) := by decide

/-- V2.8.2, first MACU of the last row. -/
theorem test_macuCmac :
    shown (on toy8 fun ch => { ch with din := blkOf 8 0x7477656E74792062 }) 0x856 =
      some (zeros 8, 0x001, 0x561, blkOf 8 0x65593832291EB6E9) := by decide

/-- V2.8.2, "abc": the lazy derivation comes first. -/
theorem test_macfCmac :
    (after (on toy8 fun ch => { ch with din := blkOf 8 0x6162630000000000 }) 0x357).map
      (fun t => (t.cur.dout, t.cur.statusWord false, t.cur.stateWord, t.primLog)) =
    some (blkOf 8 0x93C6FB52873BF0B8, 0x801, 0x551,
      [⟨.encrypt, 0, zeros 8⟩, ⟨.encrypt, 0, blkOf 8 0xA2E5288ED2965A31⟩]) := by decide

/-- 95 section 2.11: the empty message with BS = 16. -/
theorem test_macfCmac_16 :
    (after (on toy16 id) 0x057).map (fun t => t.cur.dout) = some (blkOf 16 0x34691DD2873BF0A7B4691DD2873BF21C) := by
  decide

/-- V2.9: each illegal word ends with code 7, and under FATAL with code 5. -/
theorem test_illegal_words :
    ([0x882, 0x2802, 0x1, 0x811, 0x324, 0x852, 0x806, 0x862, 0xA].all fun w => decide
        ((after (on toy8 id) w).map (fun t => (t.cur.statusWord false, t.cur.stateWord)) = some (0x073, 0x000))) = true ∧
      (after (State.resetFor { toy8 with primBs := 16 }) 0xA).map (fun t => t.cur.statusWord false) = some 0x053 := by decide

/-! ## The bus (20_memory.md, 95 section 3) -/

/-- The state after one bus access. -/
def access (s : State) (write : Bool) (bytes addr v : Nat) : Option State :=
  match step { s with
      events := [.access { write := write, bytes := bytes, addr := BitVec.ofNat 12 addr, wdata := BitVec.ofNat 32 v }] } with
  | .next t => some t
  | .fault _ => none
  | .refused _ => none

/-- V1.1: the first word of a block is its bytes 0 to 3, little-endian. -/
theorem test_write_din :
    (access (on toy8 id) true 4 0x140 0xA84CD55C).map (fun t => (t.chan 0).din) =
      some (blkOf 8 0x5CD54CA800000000) := by decide

/-- V1.1: and so it reads. -/
theorem test_read_dout :
    (access (on toy8 fun ch => { ch with dout := blkOf 8 0xB1B8CC0B250F09A0 }) false 4 0x154 0).map
      (fun t => t.busResp) = some (.read 0xA0090F25) := by decide

/-- P1, P2: ID and the reset value of channel 1's CFG. -/
theorem test_read_reset :
    (access (on toy8 id) false 4 0x000 0).map (fun t => t.busResp) = some (.read 0x01032208) ∧
      (access (on toy8 id) false 4 0x180 0).map (fun t => t.busResp) = some (.read 0x00000100) := by decide

/-- R266: a halfword access is a bus error. -/
theorem test_bus_error : (access (on toy8 id) true 2 0x140 0x1).map (fun t => (t.busResp, (t.chan 0).din)) =
    some (.error, zeros 8) := by decide

/-- P4: while channel 0 is busy, a CMD write is dropped with OVR and a DIN write ignored with WIGN. -/
theorem test_busy_writes :
    (access { on toy8 id with gbusy := true, pcmd := 0x322 } true 4 0x104 0x322).map
        (fun t => (t.pcmd, (t.chan 0).statusWord (t.busy 0))) = some (0x322, 0x10004) ∧
      (access { on toy8 id with gbusy := true, pcmd := 0x322 } true 4 0x140 0x11111111).map
        (fun t => ((t.chan 0).din, (t.chan 0).statusWord (t.busy 0))) = some (zeros 8, 0x10008) := by decide

/-- P4: W1C of 0xF clears ERR with its code, DONE, OVR and WIGN, and irq drops. -/
theorem test_w1c :
    (access (on toy8 fun ch =>
        { ch with done := true, err := true, errCode := some .directionMismatch, ovr := true, wign := true, errIe := true })
        true 4 0x108 0xF).map (fun t => ((t.chan 0).statusWord false, t.gstatusWord)) = some (0, 0) := by decide

/-- P3, P4: a CFG write is taken when the channel is FRESH and idle, and ignored with WIGN when it is STREAMING. -/
theorem test_cfg_write :
    (access (on toy8 id) true 4 0x100 0x00040000).map (fun t => ((t.chan 0).tagLen, (t.chan 0).wign)) =
        some (4, false) ∧
      (access (on toy8 fun ch => { ch with st := true, bmv := true }) true 4 0x100 0x1).map
        (fun t => ((t.chan 0).keySlot, (t.chan 0).wign)) = some (0, true) := by decide

/-- P5: the soft reset keeps FATAL, which follows PRIM_BS. -/
theorem test_soft_reset :
    (access { State.resetFor { toy8 with primBs := 16 } with gbusy := true } true 4 0x00C 1).map
      (fun t => (t.gstatusWord, t.gbusy)) = some (2, false) := by decide

section Witnesses

set_option synthInstance.maxSize 2000
set_option synthInstance.maxHeartbeats 200000

/-! ## Witnesses: states and operands that meet the hypotheses of each obligation together -/

/-- A TOY8 state with command w pending on channel 0 and the engine's move next. -/
def pending (w : Word) (f : Channel → Channel) : State :=
  { on toy8 f with gbusy := true, pcmd := w, events := [.engine] }

/-- A TOY8 state whose next move is one bus access. -/
def accessing (write : Bool) (bytes addr : Nat) : State :=
  { on toy8 id with events := [.access { write := write, bytes := bytes, addr := BitVec.ofNat 12 addr, wdata := 3 }] }

theorem witness_DecodeOfEncodeGivesTheCommand :
    (Instr.encCfb 31).WellFormed ∧ (Instr.macfCmac 0).WellFormed ∧ Instr.derive.WellFormed := by decide

theorem witness_EncodeOfDecodeGivesTheWord : decode 0x00001F22 = .ok (.encCfb 31) := by decide

theorem witness_DecodeFollowsTheOpcodeTable :
    (0x00000002, 0xFFFFE0FF) ∈ opcodeRows ∧ (0x00001F02 : Word) &&& 0xFFFFE0FF = 0x00000002 ∧
      decode 0x00001F02 = .ok (.encEcb 31) := by decide

theorem witness_IllegalWordsRaiseIllegalCommand :
    (pending 0x882 id).EngineDue ∧ decode (pending 0x882 id).pcmd = .error .reservedBits ∧
      State.EngineDue { pending 0xA id with events := [] } ∧ decode (pending 0xA id).pcmd = .error .reservedOp := by decide

theorem witness_StepRunsTheDecodedCommand :
    (pending 0x802 id).EngineDue ∧ decode (pending 0x802 id).pcmd = .ok (.encEcb 8) ∧
      State.EngineDue { pending 0x802 id with events := [] } := by decide

/-- A queue with a reset in it, one without, and the empty queue. -/
theorem witness_PendingCommandCompletes :
    let soft : Event := .access { write := true, bytes := 4, addr := 0x00C, wdata := 1 }
    let zero : Event := .access { write := true, bytes := 4, addr := 0x00C, wdata := 2 }
    (State.Inv { pending 0x802 id with events := [soft, .resetPin true] } ∧ soft.resets = true ∧
        (Event.resetPin true).resets = true) ∧
      (State.Inv { pending 0x802 id with events := [zero, .resetPin false, .engine] } ∧ (pending 0x802 id).gbusy = true ∧
        ∀ e ∈ [zero, .resetPin false, .engine], e.resets = false) ∧
      State.Inv { pending 0x802 id with events := [] } := by decide

theorem witness_IllegalAccessGetsABusError :
    (∃ a, (accessing true 2 0x140).events = .access a :: [] ∧ (a.bytes ≠ 4 ∨ a.addr.toNat % 4 ≠ 0)) ∧
      ∃ a, (accessing false 4 0x141).events = .access a :: [] ∧ (a.bytes ≠ 4 ∨ a.addr.toNat % 4 ≠ 0) :=
  ⟨⟨_, rfl, .inl (by decide)⟩, ⟨_, rfl, .inr (by decide)⟩⟩

theorem witness_LegalAccessIsServedInOneStep :
    (∃ a, (accessing true 4 0x140).events = .access a :: [] ∧ a.bytes = 4 ∧ a.addr.toNat % 4 = 0 ∧
      (accessing true 4 0x140).rstLow = false ∧ a.write = true) ∧
      ∃ a, (accessing false 4 0xFFC).events = .access a :: [] ∧ a.bytes = 4 ∧ a.addr.toNat % 4 = 0 ∧
        (accessing false 4 0xFFC).rstLow = false ∧ a.write = false :=
  ⟨⟨_, rfl, by decide⟩, ⟨_, rfl, by decide⟩⟩

/-- One offset at a boundary of each clause: the global gap, the absent counters, above the channels, the gaps of a bank. -/
theorem witness_ReservedOffsetsReadZeroAndIgnoreWrites :
    (on toy8 id).params.WF ∧ (0x010 ≤ 0x03C ∧ 0x03C < 0x040) ∧ (0x040 + 16 * (on toy8 id).params.nctr ≤ 0x060 ∧ 0x060 < 0x100) ∧
      0x100 + 0x80 * (on toy8 id).params.nch ≤ 0x200 ∧
      (1 < (on toy8 id).params.nch ∧ 0x1BC = 0x100 + 0x80 * 1 + 0x3C ∧ 0x3C % 4 = 0 ∧ (0x30 ≤ 0x3C ∧ 0x3C < 0x40)) ∧
      (0x14 % 4 = 0 ∧ 0x14 ≤ 0x14 ∧ 0x14 < 0x20) ∧ (0x7C % 4 = 0 ∧ 0x60 ≤ 0x7C ∧ 0x7C < 0x80) := by decide

theorem witness_ReadOnlyRegistersIgnoreWrites :
    (on toy8 id).params.WF ∧ 1 < (on toy8 id).params.nch ∧ 1 < (on toy8 id).params.nctr ∧ 3 < 4 := by decide

/-- Each way of being ignored at its boundary value, and an accepted write of the largest legal fields. -/
theorem witness_CfgWriteIsCheckedAndAtomic :
    1 < (on toy8 id).params.nch ∧ ((pending 0x802 id).gbusy = true ∧ (pending 0x802 id).pch = 0) ∧
      ((on toy8 fun ch => { ch with st := true }).chan 0).st = true ∧ (on toy8 id).params.nkeys ≤ field 0x00000004 0 8 ∧
      (on toy8 id).params.nctr ≤ field 0x00000200 8 3 ∧ (on toy8 id).params.bs < field 0x00090000 16 5 ∧
      ¬((on toy8 id).gbusy = true ∨ ((on toy8 id).chan 0).st = true ∨ (on toy8 id).params.nkeys ≤ field 0x00080103 0 8 ∨
          (on toy8 id).params.nctr ≤ field 0x00080103 8 3 ∨ (on toy8 id).params.bs < field 0x00080103 16 5) := by decide

theorem witness_StatusWriteClearsByOnes : 1 < (on toy8 id).params.nch ∧ 1 < (pending 0x802 id).params.nch := by decide

theorem witness_IrqenKeepsItsTwoBits : 1 < (on toy8 id).params.nch ∧ 1 < (on toy8 id).chans.length := by decide

/-- The busy channel, and an idle one while another is busy. -/
theorem witness_OperandWritesStoreTheirLanes :
    (0 < (pending 0x802 id).params.nch ∧ 3 < 4 ∧ (pending 0x802 id).gbusy = true ∧ (pending 0x802 id).pch = 0) ∧
      1 < (pending 0x802 id).params.nch ∧ ¬((pending 0x802 id).gbusy = true ∧ (pending 0x802 id).pch = 1) := by decide

theorem witness_BlockWordsAreLittleEndianLanes :
    (on toy8 id).params.WF ∧ (on toy16 id).params.WF ∧ 1 < (on toy16 id).params.nch ∧ 1 < (on toy16 id).params.nctr ∧
      3 < 4 := by decide

theorem witness_CmdWriteIsAcceptedOrDropped :
    (1 < (pending 0x802 id).params.nch ∧ (pending 0x802 id).gbusy = true) ∧
      (1 < (on toy8 id).params.nch ∧ (on toy8 id).gbusy = false) ∧ (on toy8 id).params.nch ≤ 2 := by decide

theorem witness_OperandsOfThePendingCommandAreFrozen :
    (pending 0x802 id).Inv ∧ (pending 0x802 id).gbusy = true ∧ 0x140 % 4 = 0 ∧
      ¬((0x140 : Nat) = 0x00C ∧ (1 : Word).getLsbD 0 = true) ∧ ¬((0x00C : Nat) = 0x00C ∧ (2 : Word).getLsbD 0 = true) := by
  decide

/-- A write to CMD, and the first and the last other words of a bank. -/
theorem witness_BankWriteReachesItsChannelAndTheEngine :
    1 < (pending 0x802 id).params.nch ∧ 0x04 < 0x80 ∧ (0x00 < 0x80 ∧ (0x00 : Nat) ≠ 0x04) ∧
      (0x7C < 0x80 ∧ (0x7C : Nat) ≠ 0x04) := by decide

theorem witness_IdShowsTheParameters : (on toy8 id).params.WF ∧ (on toy16 id).params.WF ∧
    Params.WF { toy8 with nch := 8, nctr := 8, nkeys := 256 } := by decide

theorem witness_StatusWordsShowTheirFields :
    (pending 0x802 id).Inv ∧ 1 < (pending 0x802 id).params.nch ∧
      (on toy16 fun ch => { ch with bmv := true, bmode := .ctr, kpos := 15, outLen := 16, done := true }).Inv := by decide

/-- Two different states that differ in the secret registers alone. -/
theorem witness_SecretRegistersAreUnreadable :
    (on toy8 id).blankSecrets = (on toy8 fun ch => { ch with chain := iv8, ks := iv8, k1 := iv8, k2 := iv8 }).blankSecrets ∧
      on toy8 id ≠ on toy8 fun ch => { ch with chain := iv8, ks := iv8, k1 := iv8, k2 := iv8 } := by decide

/-- FATAL set and clear, one channel and the largest instance. -/
theorem witness_ResetRegisterValues :
    toy8.WF ∧ Params.WF { toy8 with primBs := 16 } ∧ Params.WF { toy16 with nch := 8, nctr := 8, nkeys := 256 } := by decide

theorem witness_SoftResetIsAWholeReset : (1 : Word).getLsbD 0 = true ∧ (2 : Word).getLsbD 0 = false := by decide

/-- A running block at the falling edge, and a block held in reset at each of the three later events. -/
theorem witness_ResetPinResetsAndHolds :
    State.Inv { pending 0x802 id with events := [.resetPin true] } ∧
      State.Inv { State.resetFor toy8 with rstLow := true, events := [.engine] } ∧
      State.Inv { accessing true 4 0x140 with rstLow := true } ∧
      (∃ a, (accessing true 4 0x140).events = .access a :: [] ∧ a.bytes = 4 ∧ a.addr.toNat % 4 = 0) ∧
      State.Inv { State.resetFor toy8 with rstLow := true, events := [.resetPin false] } :=
  ⟨by decide, by decide, by decide, ⟨_, rfl, by decide⟩, by decide⟩

theorem witness_ResetMeetsTheInvariant : Params.tcfg.WF ∧ toy16.WF := by decide

theorem witness_EveryStepKeepsTheInvariant :
    (pending 0x802 id).Inv ∧ (match step (pending 0x802 id) with | .next t => decide t.Inv | .fault _ => false | .refused _ => false) =
      true := by decide

theorem witness_ParametersAreFixed :
    (match step (accessing true 4 0x00C) with | .next t => decide (t.params = toy8) | .fault _ => false | .refused _ => false) =
      true := by decide

theorem witness_FatalEndsEveryCommand : (State.resetFor { toy8 with primBs := 16 }).fatal = true := by decide

/-- A state of every clause in its order, the last one past all checks. -/
theorem witness_FirstFailingCheckDecides :
    ((Instr.decCbc 7).dataForm = some (.dec, .cbc, 7) ∧ (pending 0x713 id).Inv ∧ (pending 0x713 id).fatal = false ∧
        (pending 0x713 id).cur.ivv = false) ∧
      (State.Inv (pending 0x713 fun ch => { ch with bmv := true, bmode := .ctr })) ∧
      (State.Inv (pending 0x713 fun ch => { ch with keySlot := 3 }) ∧ keyOk toy8 3 = false) ∧
      (State.Inv (pending 0x713 fun ch => (loaded .cbc ch).commit .cbc .encrypt)) ∧
      (State.Inv (pending 0x713 fun ch => loaded .cbc ch) ∧ ¬LegalLen 8 false .dec .cbc 7) ∧
      State.Inv (pending 0x813 fun ch => loaded .cbc ch) ∧ LegalLen 8 false .dec .cbc 8 := by decide

/-- A command that ends with an error and one that does not. -/
theorem witness_ErrorsArePrecise :
    ((pending 0x702 id).Inv ∧ (pending 0x702 id).gbusy = true ∧
        (match exec (.encEcb 7) (pending 0x702 id) with | .next t => t.cur.err | .fault _ => false | .refused _ => false) =
          true) ∧
      (pending 0x802 id).Inv ∧ (pending 0x802 id).gbusy = true ∧
      (match exec (.encEcb 8) (pending 0x802 id) with | .next t => t.cur.err | .fault _ => true | .refused _ => true) =
        false := by decide

theorem witness_CommandFrame : (pending 0x802 id).pch < (pending 0x802 id).chans.length := by decide

/-- A successful command that binds, and one that fails. -/
theorem witness_OnlySuccessfulDataCommandsBind :
    ((Instr.encCfb 0).dataForm = some (.enc, .cfb, 0) ∧ (pending 0x022 (loaded .cfb)).Inv ∧
        (pending 0x022 (loaded .cfb)).gbusy = true ∧
        (match exec (.encCfb 0) (pending 0x022 (loaded .cfb)) with
          | .next t => !t.cur.err | .fault _ => false | .refused _ => false) = true) ∧
      (match exec (.encCfb 9) (pending 0x922 (loaded .cfb)) with
        | .next t => t.cur.err | .fault _ => false | .refused _ => false) = true := by decide

/-- A command with two calls. -/
theorem witness_PrimitivePortContract :
    (pending 0x057 id).Inv ∧
      (match exec (.macfCmac 0) (pending 0x057 id) with
        | .next t => t.primLog.length | .fault _ => 0 | .refused _ => 0) = 2 := by decide

theorem witness_LdivLoadsTheChain : (pending 0x011 id).fatal = false := by decide

theorem witness_LdivCtrLoadsTheSelectedCounter :
    (pending 0x041 id).fatal = false ∧ (pending 0x041 id).cur.ctrSel.toNat < (pending 0x041 id).cnt.length ∧
      (pending 0x041 id).cur.ctrSel.toNat < (pending 0x041 id).ctrv.length := by decide

theorem witness_ChrstClearsTheContext : (pending 0x009 id).fatal = false := by decide

theorem witness_EcbBlockCommands : (pending 0x802 id).Inv ∧ (pending 0x802 id).Admits .ecb .encrypt := by decide

theorem witness_EncfEcbPadsAndEncrypts :
    (pending 0x704 id).Inv ∧ (pending 0x704 id).Admits .ecb .encrypt ∧ 7 < (pending 0x704 id).params.bs ∧
      0 < (pending 0x704 id).params.bs := by decide

/-- A pad of one byte, a pad of the whole block, and a malformed pad. -/
theorem witness_DecfEcbUnpadsOrRefuses :
    (pending 0x805 id).Inv ∧ (pending 0x805 id).Admits .ecb .decrypt ∧
      PadIs 8 (decBlock toy8 0 (blkOf 8 0x32241607F9EBDD88)) 1 ∧
      PadIs 8 (decBlock toy8 0 (blkOf 8 0xF8E9DACBBCAD9E8F)) 8 ∧
      ¬∃ n, PadIs 8 (decBlock toy8 0 (blkOf 8 0x32241607F9EBDD8F)) n := by
  refine ⟨by decide, by decide, by decide, by decide, fun ⟨n, h1, h2, h3⟩ => ?_⟩
  revert h3
  interval_cases n <;> decide

theorem witness_EcbRoundTrip :
    (on toy8 id).Inv ∧ 1 < (on toy8 id).params.nch ∧ State.Admits { on toy8 id with pch := 1 } .ecb .encrypt ∧
      iv8.length = (on toy8 id).params.bs ∧ ([1, 2, 3] : Block).length < (on toy8 id).params.bs := by decide

theorem witness_CbcEncryptCommands :
    (pending 0x812 (loaded .cbc)).Inv ∧ (pending 0x812 (loaded .cbc)).Admits .cbc .encrypt ∧
      7 < (pending 0x812 (loaded .cbc)).params.bs := by decide

theorem witness_DecCbcDecryptsInTheChain :
    (pending 0x813 (loaded .cbc)).Inv ∧ (pending 0x813 (loaded .cbc)).Admits .cbc .decrypt := by decide

/-- A good pad and a malformed one, after the XOR with CHAIN. -/
theorem witness_DecfCbcUnpadsOrRefuses :
    (pending 0x815 (loaded .cbc)).Inv ∧ (pending 0x815 (loaded .cbc)).Admits .cbc .decrypt ∧
      PadIs 8 (xorBlock (decBlock toy8 0 (encBlock toy8 0 (xorBlock iv8 (List.replicate 8 8)))) iv8) 8 ∧
      ¬∃ n, PadIs 8 (xorBlock (decBlock toy8 0 (encBlock toy8 0 iv8)) iv8) n := by
  refine ⟨by decide, by decide, by decide, fun ⟨n, h1, h2, h3⟩ => ?_⟩
  revert h3
  interval_cases n <;> decide

theorem witness_CbcStreamRoundTrip :
    (on toy8 (loaded .cbc)).Inv ∧ 0 < (on toy8 (loaded .cbc)).params.nch ∧
      State.Admits { on toy8 (loaded .cbc) with pch := 0 } .cbc .encrypt ∧
      State.Admits { on toy8 (loaded .cbc) with pch := 0 } .cbc .decrypt ∧
      (∀ seg ∈ [iv8, iv8], seg.length = (on toy8 (loaded .cbc)).params.bs) ∧
      ([] : Block).length < (on toy8 (loaded .cbc)).params.bs ∧
      (iv8.take 7).length < (on toy8 (loaded .cbc)).params.bs := by decide

/-- Two messages that differ in their second block, and two that differ in the final segment alone. -/
theorem witness_CbcChangeReachesTheLaterBlocksOnly :
    let s := on toy8 (loaded .cbc)
    s.Inv ∧ 0 < s.params.nch ∧ State.Admits { s with pch := 0 } .cbc .encrypt ∧
      ((∀ seg ∈ [iv8] ++ [iv8], seg.length = s.params.bs) ∧ iv8.length = s.params.bs ∧ (zeros 8).length = s.params.bs ∧
        iv8 ≠ zeros 8 ∧ ([1, 2, 3] : Block).length < s.params.bs) ∧
      ((iv8.take 7).length < s.params.bs ∧ ([] : Block).length < s.params.bs ∧ iv8.take 7 ≠ []) := by decide

/-- Both directions, a segment KS serves whole and one that refills, and the empty segment. -/
theorem witness_CfbSegmentCommands :
    let s := pending 0x322 fun ch => { loaded .cfb ch with kpos := 5 }
    s.Inv ∧ s.Admits .cfb .encrypt ∧ s.Admits .cfb .decrypt ∧ 3 ≤ s.params.bs ∧ s.cur.heldBytes s.params.bs 3 = 3 ∧
      8 ≤ s.params.bs ∧ s.cur.heldBytes s.params.bs 8 ≠ 8 ∧ s.cur.heldBytes s.params.bs 0 = 0 := by decide

theorem witness_OfbSegmentCommands :
    let s := pending 0x332 fun ch => { loaded .ofb ch with kpos := 5 }
    s.Inv ∧ s.Admits .ofb .encrypt ∧ s.Admits .ofb .decrypt ∧ 3 ≤ s.params.bs ∧ s.cur.heldBytes s.params.bs 3 = 3 ∧
      8 ≤ s.params.bs ∧ s.cur.heldBytes s.params.bs 8 ≠ 8 := by decide

theorem witness_CtrSegmentCommands :
    let s := { counting 0xFFFFFFFFFFFFFFFF fun ch => { ch with kpos := 5 } with gbusy := true, pcmd := 0x342 }
    s.Inv ∧ s.Admits .ctr .encrypt ∧ s.Admits .ctr .decrypt ∧ 3 ≤ s.params.bs ∧ s.cur.heldBytes s.params.bs 3 = 3 ∧
      8 ≤ s.params.bs ∧ s.cur.heldBytes s.params.bs 8 ≠ 8 := by decide

/-- A CFB stream from the middle of a keystream block, split in two ways, and a CTR stream. -/
theorem witness_StreamOutputIgnoresTheSplit :
    let s := on toy8 fun ch => { loaded .cfb ch with kpos := 5 }
    let t := counting 0 id
    s.Inv ∧ 0 < s.params.nch ∧ State.Admits { s with pch := 0 } (streamMode .cfb) .decrypt ∧
      (∀ seg ∈ [iv8, [1, 2], []], seg.length ≤ s.params.bs) ∧ (∀ seg ∈ [iv8.take 3, iv8.drop 3 ++ [1], [2]], seg.length ≤ s.params.bs) ∧
      [iv8, [1, 2], []].flatten = [iv8.take 3, iv8.drop 3 ++ [1], [2]].flatten ∧
      t.Inv ∧ State.Admits { t with pch := 0 } (streamMode .ctr) .encrypt := by decide

theorem witness_StreamEqualsTheBlockwiseMode :
    let s := on toy8 (loaded .ofb)
    s.Inv ∧ 0 < s.params.nch ∧ State.Admits { s with pch := 0 } (streamMode .ofb) .encrypt ∧ (s.chan 0).kpos = 0 ∧
      (∀ seg ∈ [iv8.take 3, iv8.drop 3 ++ [1], [2]], seg.length ≤ s.params.bs) ∧
      (∀ b ∈ [iv8, [1, 2]], b.length ≤ s.params.bs) ∧ (∀ b ∈ [iv8, [1, 2]].dropLast, b.length = s.params.bs) ∧
      [iv8.take 3, iv8.drop 3 ++ [1], [2]].flatten = [iv8, [1, 2]].flatten := by decide

/-- A valid and an invalid key. -/
theorem witness_DeriveComputesTheSubkeys :
    (pending 0x008 id).fatal = false ∧ keyOk (pending 0x008 id).params (pending 0x008 id).cur.keySlot = true ∧
      keyOk toy8 (pending 0x008 fun ch => { ch with keySlot := 3 }).cur.keySlot = false := by decide

theorem witness_MacuAbsorbsABlock :
    (pending 0x856 id).Inv ∧ (pending 0x856 id).Admits .cmac .encrypt ∧
      State.Inv (pending 0x856 fun ch => { ch with bmv := true, bmode := .cmac, cmip := true, st := true }) := by decide

/-- The empty message, a full last block, and the last block of an open message. -/
theorem witness_MacfProducesTheTag :
    let s := pending 0x057 id
    let t := pending 0x157 fun ch => { ch with bmv := true, bmode := .cmac, cmip := true, st := true, tagLen := 4 }
    s.Inv ∧ s.Admits .cmac .encrypt ∧ 0 ≤ s.params.bs ∧ ¬(0 = 0 ∧ s.cur.cmip = true) ∧ 8 ≤ s.params.bs ∧
      t.Inv ∧ t.Admits .cmac .encrypt ∧ 1 ≤ t.params.bs ∧ ¬(1 = 0 ∧ t.cur.cmip = true) := by decide

/-- The empty message, and a message of three segments. -/
theorem witness_CmacTagIsAFunctionOfTheMessage :
    let s := on toy8 fun ch => { ch with tagLen := 4 }
    s.Inv ∧ 0 < s.params.nch ∧ State.Admits { s with pch := 0 } .cmac .encrypt ∧ (s.chan 0).cmip = false ∧
      (∀ b ∈ [iv8, iv8], b.length = s.params.bs) ∧ ([1] : Block).length ≤ s.params.bs ∧
      ([iv8, iv8] ≠ [] → ([1] : Block) ≠ []) ∧ (([] : List Block) ≠ [] → ([] : Block) ≠ []) := by decide

theorem witness_DoublingShiftsAndReduces : iv8.length = 8 ∧ (zeros 16).length = 16 := by decide

theorem witness_UnpadInvertsPad : 0 < 8 ∧ 7 < 8 ∧ 15 < 16 ∧ 7 ≤ iv8.length ∧ 15 ≤ (zeros 16).length := by decide

end Witnesses

end Sys2Proof.Tests
end

/-! PROOFS. The parameters and FATAL: what each move does to them (R9, R35, R293). -/

namespace Sys2Proof.Machine

/-- What a move from `s` may leave of the parameters and FATAL: the same parameters, and FATAL as it was or at its reset
value (R35, R293). -/
abbrev State.SameInstance (s t : State) : Prop :=
  t.params = s.params ∧ (t.fatal = s.fatal ∨ t.fatal = decide (s.params.primBs ≠ s.params.bs))

theorem State.doReset_sameInstance (s : State) : s.SameInstance s.doReset :=
  ⟨s.doReset_params, .inr s.doReset_fatal⟩

@[simp] theorem State.acceptCmd_params (s : State) (c : Nat) (v : Word) : (s.acceptCmd c v).params = s.params := by
  unfold State.acceptCmd; split <;> rfl

@[simp] theorem State.acceptCmd_fatal (s : State) (c : Nat) (v : Word) : (s.acceptCmd c v).fatal = s.fatal := by
  unfold State.acceptCmd; split <;> rfl

@[simp] theorem State.writeCfg_params (s : State) (c : Nat) (v : Word) : (s.writeCfg c v).params = s.params := by
  unfold State.writeCfg; split <;> rfl

@[simp] theorem State.writeCfg_fatal (s : State) (c : Nat) (v : Word) : (s.writeCfg c v).fatal = s.fatal := by
  unfold State.writeCfg; split <;> rfl

/-- Of the writes of the window only the soft reset sets FATAL (R292). -/
theorem State.writeWindow_sameInstance (s : State) (off : Nat) (v : Word) : s.SameInstance (s.writeWindow off v) := by
  rcases s.writeWindow_cases off v with
    h | ⟨-, -, h⟩ | ⟨c, -, h | h | h | h | h | ⟨-, b, ⟨-, h⟩ | ⟨-, h⟩⟩⟩ <;> rw [h]
  case inr.inl => exact s.doReset_sameInstance
  all_goals simp [State.SameInstance]

theorem State.access_sameInstance (s : State) (a : BusAccess) : s.SameInstance (s.access a) := by
  rcases s.access_cases a with ⟨-, h⟩ | ⟨-, -, h⟩ | ⟨-, -, -, h⟩ | ⟨-, -, -, h⟩ <;> rw [h]
  case inr.inr.inr => exact s.writeWindow_sameInstance _ _
  all_goals simp [State.SameInstance]

/-- Driving `rst_n` low resets FATAL, releasing it leaves FATAL (R290). -/
theorem State.resetEdge_sameInstance (s : State) (low : Bool) : s.SameInstance (s.resetEdge low) := by
  cases low with
  | true => exact s.doReset_sameInstance
  | false => exact ⟨rfl, .inl rfl⟩

/-- The engine changes neither the parameters nor FATAL (R156). -/
theorem engineTurn_sameInstance (s t : State) (h : engineTurn s = .next t) : s.SameInstance t := by
  rcases engineTurn_cases s with ⟨-, r, h'⟩ | ⟨-, h'⟩ <;> rw [h'] at h <;> cases h
  · obtain ⟨hp, hf, -⟩ := s.complete_untouched r
    exact ⟨hp, .inl hf⟩
  · exact ⟨rfl, .inl rfl⟩

theorem takeEvent_sameInstance (e : Event) (s t : State) (h : takeEvent e s = .next t) : s.SameInstance t := by
  cases e with
  | access a => cases h; exact s.access_sameInstance a
  | engine => exact engineTurn_sameInstance s t h
  | resetPin low => cases h; exact s.resetEdge_sameInstance low

/-- Settles O30, by the kinds of move: no move writes the parameters, and FATAL is written by the two resets alone. -/
theorem parametersAreFixed : Obligations.ParametersAreFixed := by
  intro s t h
  unfold step nextMove at h
  split at h
  next => exact engineTurn_sameInstance s t h
  next e rest _ => exact takeEvent_sameInstance e { s with events := rest } t h

end Sys2Proof.Machine

/-! PROOFS. The invariant of the block (R59): reset, every bus access and every command keep it. -/

namespace Sys2Proof.Machine

/-! ### Reset (R290, R291) -/

theorem Channel.reset_inv (p : Params) (c : Nat) (h : p.WF) : (Channel.reset p c).Inv p := by
  obtain ⟨hbs, -, hctr, hkeys⟩ := h
  have hpos : 0 < p.bs := by omega
  have hsel : c % p.nctr < p.nctr := Nat.mod_lt _ hctr.1
  refine ⟨by simp [Channel.reset], ⟨hkeys.1, ?_, ?_⟩, ?_, ?_⟩
  · simpa only [Channel.reset, BitVec.toNat_ofNat] using (Nat.mod_le _ _).trans_lt hsel
  · simp [Channel.reset]
  · simp [Channel.reset, Channel.Sequenced, hpos]
  · simp [Channel.reset]

/-- The reset state meets the invariant whatever stands on the reset pin, in the queue of moves and in the bus answer, none of
which is the block's to reset. -/
theorem State.resetFor_inv (p : Params) (low : Bool) (es : List Event) (r : BusResponse) (h : p.WF) :
    State.Inv { State.resetFor p with rstLow := low, events := es, busResp := r } := by
  have hcnt : ∀ b ∈ (State.resetFor p).cnt, b.length = p.bs := fun b hb => by simp [List.eq_of_mem_replicate hb]
  have hchans : ∀ ch ∈ (State.resetFor p).chans, ch.Inv p := fun ch hm => by
    obtain ⟨c, -, rfl⟩ := List.mem_map.1 hm
    exact Channel.reset_inv p c h
  exact ⟨h, rfl, ⟨by simp, hcnt, by simp⟩, ⟨by simp, hchans⟩, h.2.1.1, by simp, fun _ => rfl⟩

theorem State.doReset_inv (s : State) (h : s.Inv) : s.doReset.Inv :=
  State.resetFor_inv s.params s.rstLow s.events .idle h.1

theorem State.resetEdge_inv (s : State) (low : Bool) (h : s.Inv) : (s.resetEdge low).Inv := by
  cases low with
  | true => exact State.resetFor_inv s.params true s.events .idle h.1
  | false =>
    obtain ⟨hp, hf, hc, hch, hpch, hbusy, -⟩ := h
    exact ⟨hp, hf, hc, hch, hpch, hbusy, by simp [State.resetEdge]⟩

/-! ### Bus accesses (R39 to R47, R140) -/

/-- Everything a CFG write that is not refused has passed (R39). -/
theorem State.cfgRefused_eq_false (s : State) (c : Nat) (v : Word) :
    s.cfgRefused c v = false ↔ s.busy c = false ∧ (s.chan c).st = false ∧ field v 0 8 < s.params.nkeys ∧
      field v 8 3 < s.params.nctr ∧ field v 16 5 ≤ s.params.bs := by
  simp [State.cfgRefused, and_assoc]

theorem field_lt (w : Word) (lo n : Nat) : field w lo n < 2 ^ n := Nat.mod_lt _ (Nat.two_pow_pos n)

/-- A field read from a word fits a register of its width. -/
theorem toNat_ofNat_field (w : Word) (lo n : Nat) : (BitVec.ofNat n (field w lo n)).toNat = field w lo n := by
  rw [BitVec.toNat_ofNat, Nat.mod_eq_of_lt (field_lt w lo n)]

theorem Channel.ackStatus_inv (p : Params) (ch : Channel) (v : Word) (h : ch.Inv p) : (ch.ackStatus v).Inv p := by
  obtain ⟨hs, ⟨hks, hcs, htl, hol, herr⟩, hrest⟩ := h
  refine ⟨hs, ⟨hks, hcs, htl, hol, ?_⟩, hrest⟩
  rw [Channel.ackStatus_err, Channel.ackStatus_errCode]
  cases v.getLsbD 1 <;> simp [herr]

/-- Acknowledging keeps DONE and ERR clear (R43). -/
theorem Channel.ackStatus_clear (ch : Channel) (v : Word) (h : ch.done = false ∧ ch.err = false) :
    (ch.ackStatus v).done = false ∧ (ch.ackStatus v).err = false := by simp [h]

/-- New CFG fields in range keep a channel's invariant when SKV stays for the same key slot alone (R39, R40). -/
theorem Channel.configure_inv (p : Params) (ch : Channel) (ks : BitVec 8) (cs : BitVec 3) (tl : BitVec 5) (h : ch.Inv p)
    (hks : ks.toNat < p.nkeys) (hcs : cs.toNat < p.nctr) (htl : tl.toNat ≤ p.bs) :
    Channel.Inv p { ch with keySlot := ks, ctrSel := cs, tagLen := tl, skv := ch.skv && ch.keySlot == ks } := by
  obtain ⟨hsized, ⟨-, -, -, hol, herr⟩, hseq, hsub⟩ := h
  refine ⟨hsized, ⟨hks, hcs, htl, hol, herr⟩, hseq, fun hv => ?_⟩
  obtain ⟨hskv, hslot⟩ := by simpa using hv
  subst hslot
  exact hsub hskv

section
variable (s : State) (c : Nat) (v : Word)

theorem State.length_chans (h : s.Inv) : s.chans.length = s.params.nch := by
  obtain ⟨-, -, -, ⟨hlen, -⟩, -⟩ := h
  exact hlen

/-- The busy channel has DONE and ERR clear (R140). -/
theorem State.chan_clear_of_busy (h : s.Inv) (hg : s.gbusy = true) (hp : s.pch = c) :
    (s.chan c).done = false ∧ (s.chan c).err = false := by
  obtain ⟨-, -, -, -, -, hclear, -⟩ := h
  subst hp; exact hclear hg

theorem State.ignoreWrite_inv (h : s.Inv) (hr : s.rstLow = false) (hc : c < s.params.nch) : (s.ignoreWrite c).Inv :=
  s.setChan_inv c _ h hr hc (s.chan_inv c h hc) (s.chan_clear_of_busy c h)

theorem State.acceptCmd_inv (h : s.Inv) (hr : s.rstLow = false) (hc : c < s.params.nch) : (s.acceptCmd c v).Inv := by
  have hch := s.chan_inv c h hc
  cases hg : s.gbusy with
  | true =>
    rw [State.acceptCmd, if_pos hg]
    exact s.setChan_inv c _ h hr hc hch (s.chan_clear_of_busy c h)
  | false =>
    obtain ⟨hsized, ⟨hks, hcs, htl, hol, -⟩, hseq⟩ := hch
    have hnew : Channel.Inv s.params { s.chan c with done := false, err := false, errCode := none } :=
      ⟨hsized, ⟨hks, hcs, htl, hol, by simp⟩, hseq⟩
    have hlen := s.length_chans h
    obtain ⟨hp, hf, hcnt, hchans, -⟩ := s.setChan_inv c _ h hr hc hnew (fun _ _ => ⟨rfl, rfl⟩)
    rw [State.acceptCmd, if_neg (by simp [hg])]
    refine ⟨hp, hf, hcnt, hchans, hc, fun _ => ?_, by simp [hr]⟩
    have hcur := s.chan_setChan_same c { s.chan c with done := false, err := false, errCode := none } (hlen ▸ hc)
    exact ⟨congrArg Channel.done hcur, congrArg Channel.err hcur⟩

theorem State.writeCfg_inv (h : s.Inv) (hr : s.rstLow = false) (hc : c < s.params.nch) : (s.writeCfg c v).Inv := by
  cases hrefused : s.cfgRefused c v with
  | true => rw [State.writeCfg, if_pos hrefused]; exact s.ignoreWrite_inv c h hr hc
  | false =>
    obtain ⟨-, -, hks, hcs, htl⟩ := (s.cfgRefused_eq_false c v).1 hrefused
    rw [State.writeCfg, if_neg (by simp [hrefused])]
    exact s.setChan_inv c _ h hr hc
      ((s.chan c).configure_inv s.params _ _ _ (s.chan_inv c h hc) (by rwa [toNat_ofNat_field])
        (by rwa [toNat_ofNat_field]) (by rwa [toNat_ofNat_field]))
      (s.chan_clear_of_busy c h)

end

theorem State.writeWindow_inv (s : State) (off : Nat) (v : Word) (h : s.Inv) (hr : s.rstLow = false) :
    (s.writeWindow off v).Inv := by
  rcases s.writeWindow_cases off v with
    e | ⟨-, -, e⟩ | ⟨c, hc, e | e | e | e | e | ⟨-, b, ⟨hl, e⟩ | ⟨hl, e⟩⟩⟩ <;> rw [e]
  · exact h
  · exact s.doReset_inv h
  · exact s.acceptCmd_inv c v h hr hc
  · exact s.writeCfg_inv c v h hr hc
  · exact s.ignoreWrite_inv c h hr hc
  · exact s.setChan_inv c _ h hr hc ((s.chan c).ackStatus_inv s.params v (s.chan_inv c h hc))
      fun hg hp => (s.chan c).ackStatus_clear v (s.chan_clear_of_busy c h hg hp)
  · exact s.setChan_inv c _ h hr hc (s.chan_inv c h hc) (s.chan_clear_of_busy c h)
  · obtain ⟨⟨hiv, hsized⟩, hrest⟩ := s.chan_inv c h hc
    exact s.setChan_inv c _ h hr hc ⟨⟨hl.trans hiv, hsized⟩, hrest⟩ (s.chan_clear_of_busy c h)
  · obtain ⟨⟨hiv, hdin, hsized⟩, hrest⟩ := s.chan_inv c h hc
    exact s.setChan_inv c _ h hr hc ⟨⟨hiv, hl.trans hdin, hsized⟩, hrest⟩ (s.chan_clear_of_busy c h)

theorem State.access_inv (s : State) (a : BusAccess) (h : s.Inv) : (s.access a).Inv := by
  rcases s.access_cases a with ⟨-, e⟩ | ⟨-, -, e⟩ | ⟨-, -, -, e⟩ | ⟨-, -, hr, e⟩ <;> rw [e]
  case inr.inr.inr => exact State.respond_inv _ _ (s.writeWindow_inv _ _ h hr)
  all_goals exact s.respond_inv _ h

/-! ### Channel set-up (R180, R185) -/

/-- A new stream keeps a channel's invariant once IVV says what the mode allows (R180). -/
theorem Channel.newStream_inv (p : Params) (ch : Channel) (m : Mode) (iv : Bool) (h : ch.Inv p)
    (hiv : iv = true → bindsDir m = true) : Channel.Inv p { ch.newStream m with ivv := iv } := by
  obtain ⟨hsized, ⟨hks, hcs, htl, -, herr⟩, ⟨-, ⟨hkpos, -⟩, -⟩, hsub⟩ := h
  exact ⟨hsized, ⟨hks, hcs, htl, Nat.zero_le _, herr⟩,
    ⟨fun hv => ⟨rfl, hiv hv⟩, ⟨(Nat.zero_le _).trans_lt hkpos, by simp⟩, by simp, by simp, by simp⟩, hsub⟩

theorem Channel.loadChain_inv (p : Params) (ch : Channel) (m : Mode) (h : ch.Inv p) (hm : bindsDir m = true) :
    (ch.loadChain m).Inv p :=
  Channel.chain_inv p _ ch.iv (ch.newStream_inv p m true h fun _ => hm) h.1.1

theorem Channel.clear_inv (p : Params) (ch : Channel) (h : ch.Inv p) : (ch.clear p.bs).Inv p := by
  obtain ⟨⟨hiv, hdin, -⟩, ⟨hks, hcs, htl, -, herr⟩, ⟨-, ⟨hkpos, -⟩, -⟩, -⟩ := h
  exact ⟨⟨hiv, hdin, by simp⟩, ⟨hks, hcs, htl, Nat.zero_le _, herr⟩,
    ⟨by simp, ⟨(Nat.zero_le _).trans_lt hkpos, by simp⟩, by simp, by simp, by simp⟩, by simp⟩

/-! ### CMAC (R242 to R247) -/

/-- OUT_LEN = 0 keeps a channel's invariant. -/
theorem Channel.noOutput_inv (p : Params) (ch : Channel) (h : ch.Inv p) : Channel.Inv p { ch with outLen := 0 } := by
  obtain ⟨hsized, ⟨hks, hcs, htl, -, herr⟩, hrest⟩ := h
  exact ⟨hsized, ⟨hks, hcs, htl, Nat.zero_le _, herr⟩, hrest⟩

/-- A channel bound to CMAC may stand inside a message (I3 of R59). -/
theorem Channel.openMac_inv (p : Params) (ch : Channel) (h : ch.Inv p) (hb : ch.bmv = true ∧ ch.bmode = .cmac) :
    Channel.Inv p { ch with cmip := true } := by
  obtain ⟨hsized, hlegal, ⟨hivv, hkpos, -, hrest⟩, hsub⟩ := h
  exact ⟨hsized, hlegal, ⟨hivv, hkpos, fun _ => hb, hrest⟩, hsub⟩

theorem Channel.tagBytes_le (p : Params) (ch : Channel) (h : ch.Legal p) : ch.tagBytes p.bs ≤ p.bs := by
  unfold Channel.tagBytes
  split
  · exact le_rfl
  · exact h.2.2.1

@[simp] theorem Channel.withSubkeys_bmv (p : Params) (ch : Channel) : (ch.withSubkeys p).bmv = ch.bmv := by
  unfold Channel.withSubkeys; split <;> rfl

@[simp] theorem Channel.withSubkeys_bmode (p : Params) (ch : Channel) : (ch.withSubkeys p).bmode = ch.bmode := by
  unfold Channel.withSubkeys; split <;> rfl

/-! ### The commands (R141) -/

section
variable (s : State) (h : s.Inv) (hr : s.rstLow = false)
include h hr

/-- A command that puts a block out and binds its mode keeps the invariant (R153, R146). -/
theorem State.blockOut_inv (calls : List PrimCall) (ch : Channel) (m : Mode) (d : Dir) (r : Block) (n : Nat)
    (hch : ch.Inv s.params) (hm : ch.bmv = true → ch.bmode = m) (hn : n ≤ s.params.bs) (hlen : n ≤ r.length) :
    (s.complete (s.writesChan calls ((ch.writeOut s.params.bs r n).commit m d))).Inv :=
  s.writesChan_inv calls _ h hr (Channel.commit_inv _ _ m d (Channel.writeOut_inv _ ch r n hch hn hlen) hm)

/-- So does a final block, whether its pad is good or malformed (R193, R203). -/
theorem State.finishUnpad_inv (calls : List PrimCall) (ch : Channel) (m : Mode) (x : Block) (hch : ch.Inv s.params)
    (hm : ch.bmv = true → ch.bmode = m) (hx : x.length = s.params.bs) :
    (s.complete (s.finishUnpad calls ch m x)).Inv := by
  unfold State.finishUnpad
  split
  next => exact s.failed_inv calls _ h hr
  next y n hsome =>
    obtain ⟨hy, hn⟩ := unpad_some _ x y n hx hsome
    exact s.blockOut_inv h hr calls ch m .decrypt y n hch hm hn (hy ▸ hn)

/-- So does encrypting a block in the CBC chain (R200, R202). -/
theorem State.chainEncrypt_inv (x : Block) (hm : s.cur.bmv = true → s.cur.bmode = .cbc) (hx : x.length = s.params.bs) :
    (s.complete (s.chainEncrypt s.cur x)).Inv := by
  have hc : (encBlock s.params s.cur.keySlot (xorBlock s.cur.chain x)).length = s.params.bs := by
    obtain ⟨⟨-, -, -, hchain, -⟩, -⟩ := s.cur_inv h
    rw [length_encBlock, length_xorBlock, hchain, hx, Nat.min_self]
  exact s.blockOut_inv h hr _ _ .cbc .encrypt _ _ (Channel.chain_inv _ _ _ (s.cur_inv h) hc) hm le_rfl hc.ge

/-- Loading the selected counter keeps the invariant: IV is a block (R180). -/
theorem State.loadCounter_inv : (s.complete (s.loadCounter s.cur)).Inv := by
  have hch := s.cur_inv h
  obtain ⟨hlen, hblocks, hctrv⟩ := h.2.2.1
  refine s.complete_inv _ h hr (s.cur.newStream_inv _ .ctr false hch (by simp)) ⟨?_, fun b hb => ?_⟩ ?_
  · simpa [State.outcome, State.loadCounter] using hlen
  · rcases List.mem_or_eq_of_mem_set hb with hm | rfl
    · exact hblocks b hm
    · exact hch.1.1
  · simpa [State.outcome, State.loadCounter] using hctrv

/-- DERIVE keeps the invariant: it caches subkeys of a valid key alone (R244). -/
theorem State.derive_inv :
    (s.complete (if keyOk s.params s.cur.keySlot then
      s.writesChan [encCall s.cur.keySlot (zeros s.params.bs)] { s.cur.deriveSubkeys s.params with outLen := 0 }
      else raiseErr [] .invalidKey)).Inv := by
  split
  next hk => exact s.writesChan_inv _ _ h hr (Channel.noOutput_inv _ _ (s.cur.deriveSubkeys_inv _ (s.cur_inv h) hk))
  next => exact s.failed_inv [] _ h hr

/-- Chaining a block of a CMAC message keeps the invariant (R245). -/
theorem State.macUpdate_inv (calls : List PrimCall) (x : Block) (hm : s.cur.bmv = true → s.cur.bmode = .cmac)
    (hx : x.length = s.params.bs) :
    (s.complete (s.writesChan calls
      (Channel.commit { s.cur with chain := x, cmip := true, outLen := 0 } .cmac .encrypt))).Inv := by
  have hbound := Channel.commit_inv _ _ .cmac .encrypt
    (Channel.noOutput_inv _ _ (Channel.chain_inv _ _ x (s.cur_inv h) hx)) hm
  exact s.writesChan_inv calls _ h hr (Channel.openMac_inv _ _ hbound ⟨rfl, rfl⟩)

/-- So does putting out the tag, its subkeys derived on the way (R246, R247). -/
theorem State.macFinish_inv (calls : List PrimCall) (t : Block) (hm : s.cur.bmv = true → s.cur.bmode = .cmac)
    (hk : keyOk s.params s.cur.keySlot = true) (ht : t.length = s.params.bs) :
    (s.complete (s.writesChan calls
      ((Channel.writeOut { s.cur.withSubkeys s.params with chain := t, cmip := false } s.params.bs
        (t.take (s.cur.tagBytes s.params.bs)) (s.cur.tagBytes s.params.bs)).commit .cmac .encrypt))).Inv := by
  have hch := s.cur_inv h
  have htl := s.cur.tagBytes_le s.params hch.2.1
  exact s.blockOut_inv h hr calls _ .cmac .encrypt _ _
    (Channel.closeMac_inv _ _ t (s.cur.withSubkeys_inv _ hch hk) ht) (by simpa using hm) htl
    (by simp [ht, htl])

end

/-- What a data command may rely on once its checks are passed (R144, R145). -/
theorem State.runData_inv_of_passed (s : State) (op : DataOp) (m : Mode) (len : Nat) (body : Channel → CmdResult)
    (h : s.Inv) (hr : s.rstLow = false)
    (hb : (s.cur.bmv = true → s.cur.bmode = m) → keyOk s.params s.cur.keySlot = true →
      lenOk s.params.bs s.cur.cmip op m len = true → (s.complete (body s.cur)).Inv) :
    (s.runData op m len body).Inv := by
  refine s.runData_inv op m len body h hr fun hc => ?_
  obtain ⟨hm, hk, -, -, hl⟩ := dataCheck_passed _ _ _ _ _ _ hc
  exact hb hm hk hl

/-- A stream command keeps the invariant (R152). -/
theorem State.runStream_inv (s : State) (op : DataOp) (m : StreamMode) (d : Dir) (len : Nat) (h : s.Inv)
    (hr : s.rstLow = false)
    (hop : lenOk s.params.bs s.cur.cmip op (streamMode m) len = decide (len ≤ s.params.bs)) :
    (s.runData op (streamMode m) len (s.streamSeg m d len)).Inv :=
  s.runData_inv_of_passed op _ len _ h hr fun hm _ hl =>
    s.streamSeg_inv m d len h hr hm (of_decide_eq_true (hop ▸ hl))

theorem exec_inv (i : Instr) (s t : State) (h : s.Inv) (hr : s.rstLow = false) (he : exec i s = .next t) : t.Inv := by
  have hch := s.cur_inv h
  obtain ⟨-, hdin, -, hchain, -⟩ := hch.1
  have hpad : ∀ len, len < s.params.bs → (s.cur.padded s.params.bs len).length = s.params.bs := fun len hl =>
    length_pad _ _ _ hl.le (hdin ▸ hl.le)
  cases i <;> cases he
  case ldivCbc => exact s.runPlain_inv _ h hr fun _ => s.writesChan_inv _ _ h hr (s.cur.loadChain_inv _ .cbc hch rfl)
  case ldivCfb => exact s.runPlain_inv _ h hr fun _ => s.writesChan_inv _ _ h hr (s.cur.loadChain_inv _ .cfb hch rfl)
  case ldivOfb => exact s.runPlain_inv _ h hr fun _ => s.writesChan_inv _ _ h hr (s.cur.loadChain_inv _ .ofb hch rfl)
  case ldivCtr => exact s.runPlain_inv _ h hr fun _ => s.loadCounter_inv h hr
  case chrst => exact s.runPlain_inv _ h hr fun _ => s.writesChan_inv _ _ h hr (s.cur.clear_inv _ hch)
  case encEcb len =>
    exact s.runData_inv_of_passed .enc .ecb len _ h hr fun hm _ _ =>
      s.blockOut_inv h hr _ _ .ecb _ _ _ hch hm le_rfl (by rw [length_encBlock, hdin])
  case decEcb len =>
    exact s.runData_inv_of_passed .dec .ecb len _ h hr fun hm _ _ =>
      s.blockOut_inv h hr _ _ .ecb _ _ _ hch hm le_rfl (by rw [length_decBlock, hdin])
  case encfEcb len =>
    exact s.runData_inv_of_passed .encf .ecb len _ h hr fun hm _ hl =>
      s.blockOut_inv h hr _ _ .ecb _ _ _ hch hm le_rfl (by rw [length_encBlock, hpad len (of_decide_eq_true hl)])
  case decfEcb len =>
    exact s.runData_inv_of_passed .decf .ecb len _ h hr fun hm _ _ =>
      s.finishUnpad_inv h hr _ _ .ecb _ hch hm (by rw [length_decBlock, hdin])
  case encCbc len =>
    exact s.runData_inv_of_passed .enc .cbc len _ h hr fun hm _ _ => s.chainEncrypt_inv h hr _ hm hdin
  case decCbc len =>
    exact s.runData_inv_of_passed .dec .cbc len _ h hr fun hm _ _ =>
      s.blockOut_inv h hr _ _ .cbc _ _ _ (Channel.chain_inv _ _ _ hch hdin) hm le_rfl (by simp [hdin, hchain])
  case encfCbc len =>
    exact s.runData_inv_of_passed .encf .cbc len _ h hr fun hm _ hl =>
      s.chainEncrypt_inv h hr _ hm (hpad len (of_decide_eq_true hl))
  case decfCbc len =>
    exact s.runData_inv_of_passed .decf .cbc len _ h hr fun hm _ _ =>
      s.finishUnpad_inv h hr _ _ .cbc _ (Channel.chain_inv _ _ _ hch hdin) hm (by simp [hdin, hchain])
  case encCfb len => exact s.runStream_inv .enc .cfb .encrypt len h hr rfl
  case decCfb len => exact s.runStream_inv .dec .cfb .decrypt len h hr rfl
  case encOfb len => exact s.runStream_inv .enc .ofb .encrypt len h hr rfl
  case decOfb len => exact s.runStream_inv .dec .ofb .decrypt len h hr rfl
  case encCtr len => exact s.runStream_inv .enc .ctr .encrypt len h hr rfl
  case decCtr len => exact s.runStream_inv .dec .ctr .decrypt len h hr rfl
  case derive => exact s.runPlain_inv _ h hr fun _ => s.derive_inv h hr
  case macuCmac len =>
    exact s.runData_inv_of_passed .macu .cmac len _ h hr fun hm _ _ =>
      s.macUpdate_inv h hr _ _ hm (by simp [s.cur.length_macChain _ hch.1, hdin])
  case macfCmac len =>
    refine s.runData_inv_of_passed .macf .cmac len _ h hr fun hm hk hl => ?_
    have hlen : len ≤ s.params.bs := of_decide_eq_true (Bool.and_eq_true_iff.1 hl).1
    have hfinal := (s.cur.withSubkeys s.params).length_macFinal _ len (s.cur.withSubkeys_inv _ hch hk).1 hlen
    exact s.macFinish_inv h hr _ _ hm hk (by simp [s.cur.length_macChain _ hch.1, hfinal])

/-! ### The step (R15) -/

theorem engineTurn_inv (s t : State) (h : s.Inv) (he : engineTurn s = .next t) : t.Inv := by
  unfold engineTurn at he
  split at he
  next hready =>
    have hr : s.rstLow = false := by simpa using (Bool.and_eq_true_iff.1 hready).2
    split at he
    next i _ => exact exec_inv i s t h hr he
    next => cases he; exact s.failed_inv [] _ h hr
  next => cases he; exact h

theorem takeEvent_inv (e : Event) (s t : State) (h : s.Inv) (he : takeEvent e s = .next t) : t.Inv := by
  cases e with
  | access a => cases he; exact s.access_inv a h
  | engine => exact engineTurn_inv s t h he
  | resetPin low => cases he; exact s.resetEdge_inv low h

/-- Settles O29, by the kinds of move: a bus access, an edge of `rst_n` and the engine's turn each keep the invariant, and the
queue of moves does not enter it. -/
theorem everyStepKeepsTheInvariant : Obligations.EveryStepKeepsTheInvariant := by
  intro s t h he
  unfold step nextMove at he
  split at he
  next => exact engineTurn_inv s t h he
  next e rest _ => exact takeEvent_inv e _ t (s.events_inv rest h) he

end Sys2Proof.Machine

/-! PROOFS. What the register window shows and what a write of a bank register does (R30 to R51). -/

namespace Sys2Proof.Machine

/-! ### A bank register's offset (R85) -/

/-- A write at B(c) + r is a write of channel c's register r. -/
theorem State.writeWindow_chan (s : State) (c r : Nat) (v : Word) (hc : c < s.params.nch) (hr : r < 0x80) :
    s.writeWindow (0x100 + 0x80 * c + r) v = s.writeChan c (chanRegAt r) v := by
  rw [State.writeWindow, regAt_chan _ _ _ hc hr]; rfl

/-- A read at B(c) + r is a read of channel c's register r. -/
theorem State.readWindow_chan (s : State) (c r : Nat) (hc : c < s.params.nch) (hr : r < 0x80) :
    s.readWindow (0x100 + 0x80 * c + r) = s.readChan c (chanRegAt r) := by
  rw [State.readWindow, regAt_chan _ _ _ hc hr]; rfl

theorem State.busy_iff (s : State) (c : Nat) : s.busy c = true ↔ s.gbusy = true ∧ s.pch = c := by
  simp [State.busy]

/-! ### Writes of a bank (R39 to R47) -/

theorem State.cfgRefused_iff (s : State) (c : Nat) (v : Word) :
    s.cfgRefused c v = true ↔ (s.gbusy = true ∧ s.pch = c) ∨ (s.chan c).st = true ∨ s.params.nkeys ≤ field v 0 8 ∨
      s.params.nctr ≤ field v 8 3 ∨ s.params.bs < field v 16 5 := by
  simp [State.cfgRefused, State.busy_iff, or_assoc]

/-- Comparing the key slot registers is comparing the slot numbers: a CFG write keeps SKV for the same slot alone (R40). -/
theorem skv_and_sameSlot (skv : Bool) (ks : BitVec 8) (v : Word) :
    (skv && ks == BitVec.ofNat 8 (field v 0 8)) = if field v 0 8 = ks.toNat then skv else false := by
  have hsame : ks = BitVec.ofNat 8 (field v 0 8) ↔ field v 0 8 = ks.toNat := by
    rw [← BitVec.toNat_inj, toNat_ofNat_field, eq_comm]
  by_cases he : field v 0 8 = ks.toNat
  · rw [if_pos he, hsame.2 he, beq_self_eq_true, Bool.and_true]
  · rw [if_neg he, beq_eq_false_iff_ne.2 (mt hsame.1 he), Bool.and_false]

/-- Settles O13: the refusal is R39's condition, and SKV stays for an unchanged key slot alone. -/
theorem cfgWriteIsCheckedAndAtomic : Obligations.CfgWriteIsCheckedAndAtomic := by
  intro s c v hc
  have hwrite : s.writeWindow (0x100 + 0x80 * c) v = s.writeCfg c v := s.writeWindow_chan c 0 v hc (by decide)
  simp only [hwrite, State.writeCfg, State.cfgRefused_iff, skv_and_sameSlot, State.ignoreWrite]

/-- Settles O14: the write is the acknowledgement, busy or not. -/
theorem statusWriteClearsByOnes : Obligations.StatusWriteClearsByOnes := by
  have hclear : ∀ flag ack : Bool, (flag && !ack) = if ack then false else flag := by decide
  intro s c v hc
  have hwrite := s.writeWindow_chan c 0x08 v hc (by decide)
  simp only [hwrite, ← hclear]
  rfl

/-- The bytes of a block register after a write of word w (R46, R87). -/
theorem toNat_getD_writeLanes (b : Block) (w i : Nat) (v : Word) (hi : i < b.length) :
    ((writeLanes b w v).getD i 0).toNat =
      if 4 * w ≤ i ∧ i < 4 * w + 4 then v.toNat / 256 ^ (i - 4 * w) % 256 else (b.getD i 0).toNat := by
  rw [getD_writeLanes b w i v hi]
  split
  · exact toNat_wordByte _ _
  · rfl

/-- Settles O16: busy or not decides, and the lanes are those of `writeLanes`. -/
theorem operandWritesStoreTheirLanes : Obligations.OperandWritesStoreTheirLanes := by
  intro s c w v hc hw ch stores
  have hiv : s.writeWindow (0x100 + 0x80 * c + 0x20 + 4 * w) v = s.writeChan c (.iv w) v := by
    rw [Nat.add_assoc, s.writeWindow_chan c (0x20 + 4 * w) v hc (by omega), chanRegAt_iv w hw]
  have hdin : s.writeWindow (0x100 + 0x80 * c + 0x40 + 4 * w) v = s.writeChan c (.din w) v := by
    rw [Nat.add_assoc, s.writeWindow_chan c (0x40 + 4 * w) v hc (by omega), chanRegAt_din w hw]
  have hstores : ∀ b, stores b (writeLanes b w v) := fun b =>
    ⟨length_writeLanes b w v, fun i hi => toNat_getD_writeLanes b w i v hi⟩
  rw [hiv, hdin]
  split
  next hb =>
    have hbusy := (s.busy_iff c).2 hb
    exact ⟨if_pos hbusy, if_pos hbusy⟩
  next hb =>
    have hfree := mt (s.busy_iff c).1 hb
    exact ⟨⟨_, hstores _, if_neg hfree⟩, _, hstores _, if_neg hfree⟩

/-! ### Secrets (R49 to R51, R276) -/

/-- A channel with CHAIN, KS, K1 and K2 blanked. -/
def Channel.blank (ch : Channel) : Channel := { ch with chain := [], ks := [], k1 := [], k2 := [] }

theorem State.blankSecrets_chans (s : State) : s.blankSecrets.chans = s.chans.map Channel.blank := rfl

/-- Blanking the secrets of a block blanks each bank it has. -/
theorem State.chan_blankSecrets (s : State) (c : Nat) :
    s.blankSecrets.chan c = (s.chan c).blank ∨ s.blankSecrets.chan c = s.chan c := by
  simp only [State.chan, State.blankSecrets_chans, List.getD_eq_getElem?_getD, List.getElem?_map]
  cases s.chans[c]? with
  | some ch => exact .inl rfl
  | none => exact .inr rfl

/-- No channel register shows a secret. -/
theorem State.readChan_blankSecrets (s : State) (c : Nat) (r : ChanReg) :
    s.blankSecrets.readChan c r = s.readChan c r := by
  rcases s.chan_blankSecrets c with h | h
  · cases r <;> simp only [State.readChan, h] <;> rfl
  · cases r <;> simp only [State.readChan, h] <;> rfl

/-- The interrupt level reads DONE, ERR and their enables alone (R267). -/
theorem State.irq_blankSecrets (s : State) : s.blankSecrets.irq = s.irq := by
  rw [State.irq, State.blankSecrets_chans, List.any_map]; rfl

theorem State.readWindow_blankSecrets (s : State) (off : Nat) : s.blankSecrets.readWindow off = s.readWindow off := by
  show s.blankSecrets.readReg (regAt s.params off) = s.readReg (regAt s.params off)
  cases regAt s.params off with
  | chan c r => exact s.readChan_blankSecrets c r
  | gstatus => simp only [State.readReg, State.gstatusWord, s.irq_blankSecrets]; rfl
  | id => rfl
  | ctrvalid => rfl
  | gctrl => rfl
  | cnt k w => rfl
  | reserved => rfl

/-- Settles O24: a read and irq are functions of the block with its secrets blanked. -/
theorem secretRegistersAreUnreadable : Obligations.SecretRegistersAreUnreadable := by
  intro s t h
  refine ⟨fun off => ?_, ?_⟩
  · rw [← s.readWindow_blankSecrets, h, t.readWindow_blankSecrets]
  · rw [← s.irq_blankSecrets, h, t.irq_blankSecrets]

/-! ### Fields of a register word (R18) -/

theorem testBit_field (w : Word) (lo n k : Nat) : (field w lo n).testBit k = (decide (k < n) && w.getLsbD (lo + k)) := by
  rw [field, Nat.testBit_mod_two_pow, Nat.testBit_div_two_pow, BitVec.getLsbD, Nat.add_comm]

theorem getLsbD_putField (v lo n k : Nat) :
    (putField v lo n).getLsbD k =
      (decide (k < 32) && (decide (lo ≤ k) && (decide (k - lo < n) && v.testBit (k - lo)))) := by
  rw [putField, BitVec.getLsbD_ofNat, Nat.testBit_mul_two_pow, Nat.testBit_mod_two_pow]

/-- A flag stands at its own bit. -/
@[simp] theorem getLsbD_putBit_same (b : Bool) (lo : Nat) (h : lo < 32) : (putBit b lo).getLsbD lo = b := by
  rw [putBit, getLsbD_putField, Nat.sub_self, Nat.testBit_zero]
  cases b <;> simp [h]

/-- A field leaves the bits outside its place 0. -/
@[simp] theorem getLsbD_putField_outside (v lo n k : Nat) (h : k < lo ∨ lo + n ≤ k) :
    (putField v lo n).getLsbD k = false := by
  rw [getLsbD_putField]
  rcases h with h | h
  · simp [h.not_ge]
  · simp [show ¬k - lo < n by omega]

@[simp] theorem getLsbD_putBit_ne (b : Bool) (lo k : Nat) (h : k ≠ lo) : (putBit b lo).getLsbD k = false :=
  getLsbD_putField_outside _ lo 1 k (by omega)

@[simp] theorem field_or (a b : Word) (lo n : Nat) : field (a ||| b) lo n = field a lo n ||| field b lo n :=
  Nat.eq_of_testBit_eq fun k => by simp [testBit_field, Bool.and_or_distrib_left]

/-- A value that fits its place in the word is read back there. -/
@[simp] theorem field_putField_same (v lo n : Nat) (hv : v < 2 ^ n) (h : lo + n ≤ 32) : field (putField v lo n) lo n = v := by
  have hword : v * 2 ^ lo < 2 ^ 32 := calc
    v * 2 ^ lo < 2 ^ n * 2 ^ lo := Nat.mul_lt_mul_of_pos_right hv (Nat.two_pow_pos lo)
    _ = 2 ^ (lo + n) := by rw [← Nat.pow_add, Nat.add_comm]
    _ ≤ 2 ^ 32 := Nat.pow_le_pow_right (by decide) h
  rw [field, putField, BitVec.toNat_ofNat, Nat.mod_eq_of_lt hv, Nat.mod_eq_of_lt hword,
    Nat.mul_div_cancel _ (Nat.two_pow_pos lo), Nat.mod_eq_of_lt hv]

@[simp] theorem field_putField_toNat (n lo : Nat) (x : BitVec n) (h : lo + n ≤ 32) :
    field (putField x.toNat lo n) lo n = x.toNat :=
  field_putField_same _ lo n x.isLt h

/-- A field of other bits does not see it. -/
@[simp] theorem field_putField_disjoint (v lo n lo' n' : Nat) (h : lo + n ≤ lo' ∨ lo' + n' ≤ lo) :
    field (putField v lo n) lo' n' = 0 :=
  Nat.eq_of_testBit_eq fun k => by
    rw [testBit_field, Nat.zero_testBit, Bool.and_eq_false_imp]
    intro hk
    have hk := of_decide_eq_true hk
    exact getLsbD_putField_outside v lo n _ (by omega)

@[simp] theorem field_putBit_disjoint (b : Bool) (lo lo' n' : Nat) (h : lo < lo' ∨ lo' + n' ≤ lo) :
    field (putBit b lo) lo' n' = 0 :=
  field_putField_disjoint _ lo 1 lo' n' h

/-! ### The words software reads (R30 to R45) -/

theorem idWord_fields (p : Params) (h : p.WF) :
    field (idWord p) 0 8 = p.bs ∧ field (idWord p) 8 4 = p.nch ∧ field (idWord p) 12 4 = p.nctr ∧
      field (idWord p) 16 8 = p.nkeys - 1 ∧ field (idWord p) 24 8 = 0x01 := by
  obtain ⟨hbs, hch, hctr, hkeys⟩ := h
  have hbs : p.bs < 256 := by omega
  have hch : p.nch < 16 := by omega
  have hctr : p.nctr < 16 := by omega
  have hkeys : p.nkeys - 1 < 256 := by omega
  simp [idWord, hbs, hch, hctr, hkeys]

/-- Settles O21: the ID word's fields, and a read-only register at offset 0. -/
theorem idShowsTheParameters : Obligations.IdShowsTheParameters := by
  refine ⟨fun s h => ?_, by decide⟩
  have hid : s.readWindow 0x000 = idWord s.params := rfl
  obtain ⟨hbs, hch, hctr, hkeys, hrev⟩ := idWord_fields s.params h
  rw [hid]
  exact ⟨hbs, hch, hctr, hkeys, hrev, fun _ => rfl⟩

theorem State.gstatusWord_fields (s : State) :
    s.gstatusWord.getLsbD 0 = s.gbusy ∧ s.gstatusWord.getLsbD 1 = s.fatal ∧ s.gstatusWord.getLsbD 2 = s.irq ∧
      field s.gstatusWord 3 29 = 0 := by
  simp [State.gstatusWord, -BitVec.getLsbD_eq_getElem]

theorem Channel.cfgWord_fields (ch : Channel) :
    field ch.cfgWord 0 8 = ch.keySlot.toNat ∧ field ch.cfgWord 8 3 = ch.ctrSel.toNat ∧
      field ch.cfgWord 16 5 = ch.tagLen.toNat ∧ field ch.cfgWord 11 5 = 0 ∧ field ch.cfgWord 21 11 = 0 := by
  simp [Channel.cfgWord]

theorem errNumber_lt (e : Option ErrCode) : errNumber e < 16 := by
  rcases e with _ | e
  · decide
  · cases e <;> decide

theorem modeNumber_lt (m : Mode) : modeNumber m < 8 := by cases m <;> decide

theorem Channel.statusWord_fields (ch : Channel) (busy : Bool) (h : ch.outLen < 32) :
    let w := ch.statusWord busy
    w.getLsbD 0 = ch.done ∧ w.getLsbD 1 = ch.err ∧ w.getLsbD 2 = ch.ovr ∧ w.getLsbD 3 = ch.wign ∧
      field w 4 4 = errNumber ch.errCode ∧ field w 8 5 = ch.outLen ∧ w.getLsbD 16 = busy ∧ field w 13 3 = 0 ∧
      field w 17 15 = 0 := by
  simp [Channel.statusWord, h, errNumber_lt, -BitVec.getLsbD_eq_getElem]

theorem dirBit_eq (d : Dir) : dirBit d = (d == .decrypt) := by cases d <;> rfl

theorem Channel.stateWord_fields (ch : Channel) (h : ch.kpos < 16) :
    let w := ch.stateWord
    w.getLsbD 0 = ch.st ∧ w.getLsbD 1 = ch.dirv ∧ w.getLsbD 2 = (ch.dir == .decrypt) ∧ w.getLsbD 3 = ch.ivv ∧
      w.getLsbD 4 = ch.skv ∧ w.getLsbD 5 = ch.cmip ∧ w.getLsbD 6 = ch.bmv ∧ field w 8 3 = modeNumber ch.bmode ∧
      field w 16 4 = ch.kpos ∧ w.getLsbD 7 = false ∧ field w 11 5 = 0 ∧ field w 20 12 = 0 := by
  simp [Channel.stateWord, h, modeNumber_lt, dirBit_eq, -BitVec.getLsbD_eq_getElem]

/-- Bit k of a list of bits read as a number is its element k. -/
theorem testBit_bitsNat (l : List Bool) (k : Nat) : (bitsNat l).testBit k = l.getD k false := by
  induction l generalizing k with
  | nil => simp [bitsNat]
  | cons b bs ih =>
    cases k with
    | zero => cases b <;> simp [bitsNat]
    | succ k =>
      have hhalf : (b.toNat + 2 * bitsNat bs) / 2 = bitsNat bs := by cases b <;> simp; omega
      rw [bitsNat, Nat.testBit_succ, hhalf, ih, List.getD_cons_succ]

theorem State.ctrvalidWord_getLsbD (s : State) (k : Nat) (h : s.ctrv.length ≤ 32) :
    s.ctrvalidWord.getLsbD k = s.ctrv.getD k false := by
  rw [State.ctrvalidWord, BitVec.getLsbD_ofNat, testBit_bitsNat]
  by_cases hk : k < 32
  · simp only [hk, decide_true, Bool.true_and]
  · rw [List.getD_eq_default _ _ (by omega), Bool.and_false]

/-- Settles O22: each window read is its register's word, whose fields fit under the invariant. -/
theorem statusWordsShowTheirFields : Obligations.StatusWordsShowTheirFields := by
  intro s c h hc ch
  obtain ⟨-, ⟨-, -, -, houtBs, -⟩, ⟨-, ⟨hkposBs, -⟩, -⟩, -⟩ := s.chan_inv c h hc
  obtain ⟨⟨hbs, -, hnctr, -⟩, -, ⟨-, -, hctrv⟩, -⟩ := h
  have hout : ch.outLen < 32 := houtBs.trans_lt (by omega)
  have hkpos : ch.kpos < 16 := hkposBs.trans_le (by omega)
  have hcfg : s.readWindow (0x100 + 0x80 * c) = ch.cfgWord := s.readWindow_chan c 0 hc (by decide)
  have hstatus : s.readWindow (0x100 + 0x80 * c + 0x08) = ch.statusWord (s.busy c) :=
    s.readWindow_chan c 0x08 hc (by decide)
  have hstate : s.readWindow (0x100 + 0x80 * c + 0x0C) = ch.stateWord := s.readWindow_chan c 0x0C hc (by decide)
  rw [hcfg, hstatus, hstate]
  exact ⟨s.gstatusWord_fields, fun k => s.ctrvalidWord_getLsbD k (hctrv ▸ by omega), ch.cfgWord_fields,
    ch.statusWord_fields _ hout, ch.stateWord_fields hkpos⟩

/-- IRQEN shows the two low bits of the word that was written (R45). -/
theorem Channel.irqenWord_setIrqen (ch : Channel) (v : Word) : (ch.setIrqen v).irqenWord = v &&& 3 := by
  have hmask : (3 : Word) = putBit true 0 ||| putBit true 1 := by decide
  refine BitVec.eq_of_getLsbD_eq fun i _ => ?_
  rw [hmask, Channel.irqenWord, BitVec.getLsbD_and, BitVec.getLsbD_or, BitVec.getLsbD_or]
  match i with
  | 0 => simp [-BitVec.getLsbD_eq_getElem]
  | 1 => simp [-BitVec.getLsbD_eq_getElem]
  | i + 2 => simp

theorem State.chan_resetFor (p : Params) (c : Nat) : (State.resetFor p).chan c = Channel.reset p c := by
  rw [State.chan, State.resetFor_chans, List.getD_eq_getElem?_getD, List.getElem?_map]
  by_cases hc : c < p.nch <;> simp [hc]

/-- Settles O15: the write stores the two bits, whose reading back is their mask. -/
theorem irqenKeepsItsTwoBits : Obligations.IrqenKeepsItsTwoBits := by
  intro s c v hc hlen
  have hwrite : s.writeWindow (0x100 + 0x80 * c + 0x10) v = s.setChan c ((s.chan c).setIrqen v) :=
    s.writeWindow_chan c 0x10 v hc (by decide)
  have hread : ∀ t : State, t.params = s.params → t.readWindow (0x100 + 0x80 * c + 0x10) = (t.chan c).irqenWord :=
    fun t ht => t.readWindow_chan c 0x10 (ht ▸ hc) (by decide)
  refine ⟨hwrite, ?_, ?_⟩
  · rw [hwrite, hread _ (State.setChan_params ..), State.chan_setChan_same s c _ hlen, Channel.irqenWord_setIrqen]
  · rw [hread _ (State.resetFor_params _), State.chan_resetFor]
    exact (by decide : putBit false 0 ||| putBit false 1 = 0)

end Sys2Proof.Machine

/-! PROOFS. The register window over the bus (20_memory.md): one access, the reserved and the read-only offsets, the frame of a
bank write, and the pending command that no write reaches and that always completes. -/

namespace Sys2Proof.Machine

/-! ### One bus access (R81, R84, R88) -/

theorem BusAccess.legal_iff (a : BusAccess) : a.legal = true ↔ a.bytes = 4 ∧ a.addr.toNat % 4 = 0 := by
  simp [BusAccess.legal]

/-- A queued access is the whole of the next step (R88). -/
theorem step_access (s : State) (a : BusAccess) (rest : List Event) (h : s.events = .access a :: rest) :
    step s = .next (State.access { s with events := rest } a) := by
  rw [step, nextMove, h]; rfl

/-- An illegal access is answered by the bus error alone, `rst_n` low or not (R266). -/
theorem State.access_illegal (s : State) (a : BusAccess) (h : a.legal = false) : s.access a = s.respond .error := by
  simp [State.access, h]

theorem State.access_read (s : State) (a : BusAccess) (hl : a.legal = true) (hw : a.write = false)
    (hr : s.rstLow = false) : s.access a = s.respond (.read (s.readWindow a.addr.toNat)) := by
  simp [State.access, hl, hw, hr]

theorem State.access_write (s : State) (a : BusAccess) (hl : a.legal = true) (hw : a.write = true)
    (hr : s.rstLow = false) : s.access a = (s.writeWindow a.addr.toNat a.wdata).respond .written := by
  simp [State.access, hl, hw, hr]

/-- Settles O9: the step is the access, and an illegal one only puts its error on record. -/
theorem illegalAccessGetsABusError : Obligations.IllegalAccessGetsABusError := by
  intro s a rest he ha
  have hillegal : a.legal = false := by
    rw [← Bool.not_eq_true, a.legal_iff]
    omega
  refine ⟨_, step_access s a rest he, ?_⟩
  rw [State.access_illegal _ a hillegal]
  exact ⟨rfl, rfl, rfl, rfl⟩

/-- Settles O10: the step is the access, a window read put on record or a window write. -/
theorem legalAccessIsServedInOneStep : Obligations.LegalAccessIsServedInOneStep := by
  intro s a rest he hbytes haddr hr
  have hl : a.legal = true := a.legal_iff.2 ⟨hbytes, haddr⟩
  rw [step_access s a rest he]
  exact ⟨fun hw => congrArg _ (State.access_read _ a hl hw hr), fun hw => congrArg _ (State.access_write _ a hl hw hr)⟩

/-! ### Reserved and read-only offsets, block words (R82 to R87) -/

/-- Between the global registers and the counters the window is reserved (R85). -/
theorem regAt_belowCounters (p : Params) (off : Nat) (hlo : 0x010 ≤ off) (hhi : off < 0x040) :
    regAt p off = .reserved := by
  unfold regAt
  rw [if_pos (by omega), if_neg (by omega), if_neg (by omega), if_neg (by omega), if_neg (by omega), if_neg (by omega)]

/-- Above the counters the block has, up to the first bank, the window is reserved (R82, R85). -/
theorem regAt_absentCounter (p : Params) (off : Nat) (hlo : 0x040 + 16 * p.nctr ≤ off) (hhi : off < 0x100) :
    regAt p off = .reserved := by
  unfold regAt
  rw [if_pos hhi, if_neg (by omega), if_neg (by omega), if_neg (by omega), if_neg (by omega), if_neg (by omega)]

/-- The gaps of a bank are reserved (R85). -/
theorem chanRegAt_reserved (r : Nat) (h : (0x14 ≤ r ∧ r < 0x20) ∨ (0x30 ≤ r ∧ r < 0x40) ∨ (0x60 ≤ r ∧ r < 0x80)) :
    chanRegAt r = .reserved := by
  unfold chanRegAt
  rw [if_neg (by omega), if_neg (by omega), if_neg (by omega), if_neg (by omega), if_neg (by omega), if_neg (by omega),
    if_neg (by omega), if_neg (by omega)]

/-- Settles O11: the four ranges are reserved in the address map, or in the map of a bank. -/
theorem reservedOffsetsReadZeroAndIgnoreWrites : Obligations.ReservedOffsetsReadZeroAndIgnoreWrites := by
  intro s off v _ hoff
  have hmap : regAt s.params off = .reserved ∨ ∃ c, regAt s.params off = .chan c .reserved := by
    rcases hoff with ⟨hlo, hhi⟩ | ⟨hlo, hhi⟩ | habsent | ⟨c, r, hc, rfl, -, hgap⟩
    · exact .inl (regAt_belowCounters _ off hlo hhi)
    · exact .inl (regAt_absentCounter _ off hlo hhi)
    · exact .inl (regAt_absent _ off habsent)
    · exact .inr ⟨c, by rw [regAt_chan _ c r hc (by omega), chanRegAt_reserved r hgap]⟩
  rw [State.readWindow, State.writeWindow]
  rcases hmap with h | ⟨c, h⟩ <;> rw [h] <;> exact ⟨rfl, rfl⟩

/-- Settles O12: the map names a read-only register at each offset, whose write is nothing, or a write-only one. -/
theorem readOnlyRegistersIgnoreWrites : Obligations.ReadOnlyRegistersIgnoreWrites := by
  intro s c k w v ⟨_, _, ⟨_, hnctr⟩, _⟩ hc hk hw
  have hcnt : s.writeWindow (0x040 + 16 * k + 4 * w) v = s := by rw [State.writeWindow, regAt_cnt _ k w hk hnctr hw]; rfl
  have hdout : s.writeWindow (0x100 + 0x80 * c + 0x50 + 4 * w) v = s := by
    rw [Nat.add_assoc, s.writeWindow_chan c (0x50 + 4 * w) v hc (by omega), chanRegAt_dout w hw]; rfl
  exact ⟨rfl, rfl, rfl, hcnt, s.writeWindow_chan c 0x0C v hc (by decide), hdout, rfl,
    s.readWindow_chan c 0x04 hc (by decide)⟩

/-- Settles O17: each offset names word w of its block register, which reads as its four lanes. -/
theorem blockWordsAreLittleEndianLanes : Obligations.BlockWordsAreLittleEndianLanes := by
  intro s c k w ⟨_, _, ⟨_, hnctr⟩, _⟩ hc hk hw lanes
  have hbank : ∀ base, base < 0x60 →
      s.readWindow (0x100 + 0x80 * c + base + 4 * w) = s.readChan c (chanRegAt (base + 4 * w)) := fun base hb => by
    rw [Nat.add_assoc, s.readWindow_chan c _ hc (by omega)]
  have hcnt : s.readWindow (0x040 + 16 * k + 4 * w) = readLanes (s.cnt.getD k []) w := by
    rw [State.readWindow, regAt_cnt _ k w hk hnctr hw]; rfl
  rw [hbank 0x20 (by decide), hbank 0x40 (by decide), hbank 0x50 (by decide), hcnt, chanRegAt_iv w hw,
    chanRegAt_din w hw, chanRegAt_dout w hw]
  exact ⟨toNat_readLanes _ w, toNat_readLanes _ w, toNat_readLanes _ w, toNat_readLanes _ w⟩

/-! ### The frame of a bank write (R92, R275) -/

/-- CMD stands at offset 0x04 of a bank alone (R85). -/
theorem chanRegAt_cmd (r : Nat) (h : chanRegAt r = .cmd) : r = 0x04 := by
  unfold chanRegAt at h
  split at h
  · cases h
  · split at h
    · assumption
    · repeat' split at h
      all_goals cases h

/-- Replacing a bank by itself is nothing. -/
theorem State.setChan_chan (s : State) (c : Nat) : s.setChan c (s.chan c) = s := by
  have hset : s.chans.set c (s.chan c) = s.chans := by
    by_cases hc : c < s.chans.length
    · simp [State.chan, hc]
    · exact List.set_eq_of_length_le (by omega)
  rw [State.setChan, hset]

/-- A write of a bank register other than CMD replaces that bank and nothing else (R92). -/
theorem State.writeChan_setChan (s : State) (c : Nat) (r : ChanReg) (v : Word) (h : r ≠ .cmd) :
    ∃ ch, s.writeChan c r v = s.setChan c ch := by
  have hnone : ∃ ch, s = s.setChan c ch := ⟨_, (s.setChan_chan c).symm⟩
  cases r with
  | cmd => exact absurd rfl h
  | cfg =>
    show ∃ ch, s.writeCfg c v = s.setChan c ch
    unfold State.writeCfg
    split <;> exact ⟨_, rfl⟩
  | status => exact ⟨_, rfl⟩
  | irqen => exact ⟨_, rfl⟩
  | iv w => unfold State.writeChan; dsimp only; split <;> exact ⟨_, rfl⟩
  | din w => unfold State.writeChan; dsimp only; split <;> exact ⟨_, rfl⟩
  | state => exact hnone
  | dout w => exact hnone
  | reserved => exact hnone

/-- A CMD write replaces its bank and may set the pending command (R140). -/
theorem State.acceptCmd_setChan (s : State) (c : Nat) (v : Word) :
    ∃ ch g p w, s.acceptCmd c v = { s.setChan c ch with gbusy := g, pch := p, pcmd := w } := by
  unfold State.acceptCmd
  split
  · exact ⟨_, s.gbusy, s.pch, s.pcmd, rfl⟩
  · exact ⟨_, _, _, _, rfl⟩

/-- Settles O20: every register of the bank but CMD replaces the bank alone, and CMD the pending command besides. -/
theorem bankWriteReachesItsChannelAndTheEngine : Obligations.BankWriteReachesItsChannelAndTheEngine := by
  intro s c r v hc hr t
  have hwrite : t = s.writeChan c (chanRegAt r) v := s.writeWindow_chan c r v hc hr
  have hframe : ∃ ch g p w, t = { s.setChan c ch with gbusy := g, pch := p, pcmd := w } ∧
      (r ≠ 0x04 → g = s.gbusy ∧ p = s.pch ∧ w = s.pcmd) := by
    by_cases hcmd : r = 0x04
    · subst hcmd
      obtain ⟨ch, g, p, w, h⟩ := s.acceptCmd_setChan c v
      exact ⟨ch, g, p, w, hwrite.trans h, fun hne => absurd rfl hne⟩
    · obtain ⟨ch, h⟩ := s.writeChan_setChan c _ v (mt (chanRegAt_cmd r) hcmd)
      exact ⟨ch, s.gbusy, s.pch, s.pcmd, hwrite.trans h, fun _ => ⟨rfl, rfl, rfl⟩⟩
  obtain ⟨ch, g, p, w, ht, hpending⟩ := hframe
  rw [ht]
  exact ⟨fun d hd => s.chan_setChan_ne c d ch hd, by simp, rfl, rfl, rfl, rfl, rfl, rfl, rfl, rfl, hpending⟩

/-! ### The pending command's operands (R93, R297) -/

/-- A bank with the flags of another that the host may still change while a command is pending: OVR, WIGN and the interrupt
enables (R43, R45, R263, R264). -/
def Channel.withFlagsOf (ch like : Channel) : Channel :=
  { ch with ovr := like.ovr, wign := like.wign, doneIe := like.doneIe, errIe := like.errIe }

/-- A state that keeps the pending command of `s` and everything that command will read (R93). -/
abbrev State.KeepsPending (s t : State) : Prop :=
  t.gbusy = true ∧ t.pch = s.pch ∧ t.pcmd = s.pcmd ∧ t.fatal = s.fatal ∧ t.cnt = s.cnt ∧ t.ctrv = s.ctrv ∧
    t.cur.withFlagsOf s.cur = s.cur

/-- PCH names a present channel (R34). -/
theorem State.pch_lt (s : State) (h : s.Inv) : s.pch < s.chans.length := by
  obtain ⟨-, -, -, ⟨hlen, -⟩, hpch, -⟩ := h
  exact hlen ▸ hpch

/-- Acknowledging a channel without DONE and ERR touches OVR and WIGN alone (R43). -/
theorem Channel.ackStatus_of_clear (ch : Channel) (v : Word) (hd : ch.done = false) (he : ch.err = false)
    (hc : ch.errCode = none) :
    ch.ackStatus v = { ch with ovr := ch.ovr && !v.getLsbD 2, wign := ch.wign && !v.getLsbD 3 } := by
  simp [Channel.ackStatus, hd, he, hc]

section
variable (s : State) (c : Nat) (v : Word) (h : s.Inv) (hg : s.gbusy = true)
include h hg

/-- A new bank keeps the pending command if it is another channel's, or the same bank but for its flags. -/
theorem State.setChan_keepsPending (ch : Channel) (hch : c = s.pch → ch.withFlagsOf s.cur = s.cur) :
    s.KeepsPending (s.setChan c ch) := by
  refine ⟨hg, rfl, rfl, rfl, rfl, rfl, ?_⟩
  by_cases hc : c = s.pch
  · subst hc
    have hcur : (s.setChan s.pch ch).cur = ch := s.chan_setChan_same s.pch ch (s.pch_lt h)
    rw [hcur, hch rfl]
  · have hcur : (s.setChan c ch).cur = s.cur := s.chan_setChan_ne c s.pch ch (Ne.symm hc)
    rw [hcur]; rfl

/-- So a bank that is not busy may take any value. -/
theorem State.setChan_keepsPending_of_not_busy (ch : Channel) (hbusy : s.busy c = false) :
    s.KeepsPending (s.setChan c ch) :=
  s.setChan_keepsPending c h hg ch fun hc =>
    absurd ((s.busy_iff c).2 ⟨hg, hc.symm⟩) (Bool.eq_false_iff.1 hbusy)

theorem State.ignoreWrite_keepsPending : s.KeepsPending (s.ignoreWrite c) :=
  s.setChan_keepsPending c h hg _ fun hc => by subst hc; rfl

/-- A second command is dropped (R263). -/
theorem State.acceptCmd_keepsPending : s.KeepsPending (s.acceptCmd c v) := by
  rw [State.acceptCmd, if_pos hg]
  exact s.setChan_keepsPending c h hg _ fun hc => by subst hc; rfl

/-- CFG of the busy channel refuses the write (R39). -/
theorem State.writeCfg_keepsPending : s.KeepsPending (s.writeCfg c v) := by
  cases hrefused : s.cfgRefused c v with
  | true => rw [State.writeCfg, if_pos hrefused]; exact s.ignoreWrite_keepsPending c h hg
  | false =>
    obtain ⟨hbusy, -⟩ := (s.cfgRefused_eq_false c v).1 hrefused
    rw [State.writeCfg, if_neg (by simp [hrefused])]
    exact s.setChan_keepsPending_of_not_busy c h hg _ hbusy

/-- Acknowledging finds DONE, ERR and ERRCODE of the busy channel clear already (R140). -/
theorem State.ackStatus_keepsPending : s.KeepsPending (s.setChan c ((s.chan c).ackStatus v)) := by
  refine s.setChan_keepsPending c h hg _ fun hc => ?_
  subst hc
  obtain ⟨hdone, herr⟩ := s.chan_clear_of_busy s.pch h hg rfl
  obtain ⟨-, ⟨-, -, -, -, hcode⟩, -⟩ := s.cur_inv h
  have hnone : s.cur.errCode = none := by simpa [show s.cur.err = false from herr] using hcode
  rw [Channel.ackStatus_of_clear _ v hdone herr hnone]
  rfl

/-- No window write but the soft reset reaches the pending command (R93). -/
theorem State.writeWindow_keepsPending (off : Nat) (hreset : ¬(off = 0x00C ∧ v.getLsbD 0 = true)) :
    s.KeepsPending (s.writeWindow off v) := by
  rcases s.writeWindow_cases off v with
    e | ⟨ho, hv, -⟩ | ⟨c, -, e | e | e | e | e | ⟨hbusy, b, ⟨-, e⟩ | ⟨-, e⟩⟩⟩
  case inr.inl => exact absurd ⟨ho, hv⟩ hreset
  all_goals rw [e]
  · exact ⟨hg, rfl, rfl, rfl, rfl, rfl, rfl⟩
  · exact s.acceptCmd_keepsPending c v h hg
  · exact s.writeCfg_keepsPending c v h hg
  · exact s.ignoreWrite_keepsPending c h hg
  · exact s.ackStatus_keepsPending c v h hg
  · exact s.setChan_keepsPending c h hg _ fun hc => by subst hc; rfl
  · exact s.setChan_keepsPending_of_not_busy c h hg _ hbusy
  · exact s.setChan_keepsPending_of_not_busy c h hg _ hbusy

end

/-- Settles O19: by the writes a window has; alignment does not enter it. -/
theorem operandsOfThePendingCommandAreFrozen : Obligations.OperandsOfThePendingCommandAreFrozen :=
  fun s off v h hg _ hreset => s.writeWindow_keepsPending v h hg off hreset

/-! ### Completion of the pending command (R90, R292, R306) -/

/-- While a command is pending the block is not held in reset (R290). -/
theorem State.rstLow_of_gbusy (s : State) (h : s.Inv) (hg : s.gbusy = true) : s.rstLow = false := by
  obtain ⟨-, -, -, -, -, -, hheld⟩ := h
  rw [← Bool.not_eq_true]
  intro hr
  have hidle : s.gbusy = false := congrArg State.gbusy (hheld hr)
  exact Bool.false_ne_true (hidle.symm.trans hg)

/-- The engine's turn completes the pending command with DONE (R141). -/
theorem engineTurn_completes (s : State) (h : s.Inv) (hg : s.gbusy = true) :
    ∃ u, engineTurn s = .next u ∧ u.gbusy = false ∧ (u.chan s.pch).done = true := by
  have hready : s.engineReady = true := by rw [State.engineReady, hg, s.rstLow_of_gbusy h hg]; rfl
  rcases engineTurn_cases s with ⟨-, r, hturn⟩ | ⟨hidle, -⟩
  · exact ⟨_, hturn, rfl, congrArg Channel.done (s.cur_complete r (s.pch_lt h))⟩
  · exact absurd hready (by simp [hidle])

/-- After the engine's turn nothing is pending, whether there was or not (R307). -/
theorem engineTurn_leaves_idle (s : State) (h : s.Inv) : ∃ u, engineTurn s = .next u ∧ u.gbusy = false := by
  cases hg : s.gbusy with
  | true =>
    obtain ⟨u, hturn, hu, -⟩ := engineTurn_completes s h hg
    exact ⟨u, hturn, hu⟩
  | false => exact ⟨s, by simp [engineTurn, State.engineReady, hg], hg⟩

/-- Every step answers a next state (R261, R266, R307). -/
theorem step_next (s : State) : ∃ t, step s = .next t := by
  have hengine : ∀ s, ∃ t, engineTurn s = .next t := fun s => by
    rcases engineTurn_cases s with ⟨-, r, h⟩ | ⟨-, h⟩ <;> exact ⟨_, h⟩
  unfold step nextMove
  split
  next => exact hengine s
  next e rest _ =>
    cases e with
    | access a => exact ⟨_, rfl⟩
    | engine => exact hengine _
    | resetPin low => exact ⟨_, rfl⟩

/-- With the queue used up and one step more, nothing is pending. -/
theorem run_leaves_idle (s : State) (h : s.Inv) :
    ∃ t, Sys2Proof.core.run (s.events.length + 1) s = .next t ∧ t.gbusy = false ∧ t.events = [] := by
  induction he : s.events generalizing s with
  | nil =>
    obtain ⟨t, hturn, ht⟩ := engineTurn_leaves_idle s h
    have hstep : step s = .next t := by rw [step, nextMove, he]; exact hturn
    exact ⟨t, run_succ_of_step 0 s t hstep, ht, by rw [step_events s t hstep, he]; rfl⟩
  | cons e rest ih =>
    obtain ⟨t, hstep⟩ := step_next s
    have hrest : t.events = rest := by rw [step_events s t hstep, he]; rfl
    obtain ⟨u, hrun, hu⟩ := ih t (everyStepKeepsTheInvariant s t h hstep) hrest
    exact ⟨u, (run_succ_of_step _ s t hstep).trans hrun, hu⟩

/-- A bus access that does not reset the block leaves the pending command pending (R93). -/
theorem State.access_pending (s : State) (a : BusAccess) (h : s.Inv) (hg : s.gbusy = true)
    (ha : Event.resets (.access a) = false) : (s.access a).gbusy = true ∧ (s.access a).pch = s.pch := by
  rcases s.access_cases a with ⟨-, e⟩ | ⟨-, -, e⟩ | ⟨-, -, -, e⟩ | ⟨hl, hw, -, e⟩ <;> rw [e]
  case inr.inr.inr =>
    have hreset : ¬(a.addr.toNat = 0x00C ∧ a.wdata.getLsbD 0 = true) := fun ⟨ho, hv⟩ => by
      have haddr : a.addr = 0x00C := BitVec.eq_of_toNat_eq ho
      simp [Event.resets, hl, hw, haddr, hv, -BitVec.getLsbD_eq_getElem] at ha
    obtain ⟨hgbusy, hpch, -⟩ := s.writeWindow_keepsPending a.wdata h hg a.addr.toNat hreset
    exact ⟨hgbusy, hpch⟩
  all_goals exact ⟨hg, rfl⟩

/-- A move that does not reset the block leaves the pending command pending or completes it with DONE. -/
theorem takeEvent_pending (e : Event) (s : State) (h : s.Inv) (hg : s.gbusy = true) (he : e.resets = false) :
    ∃ t, takeEvent e s = .next t ∧
      ((t.gbusy = true ∧ t.pch = s.pch) ∨ (t.gbusy = false ∧ (t.chan s.pch).done = true)) := by
  cases e with
  | access a => exact ⟨_, rfl, .inl (s.access_pending a h hg he)⟩
  | engine =>
    obtain ⟨u, hturn, hu⟩ := engineTurn_completes s h hg
    exact ⟨u, hturn, .inr hu⟩
  | resetPin low =>
    cases (show low = false from he)
    exact ⟨_, rfl, .inl ⟨hg, rfl⟩⟩

/-- With no reset in the queue the pending command completes with DONE, at the latest when the queue is used up. -/
theorem run_completes (s : State) (h : s.Inv) (hg : s.gbusy = true) (hevents : ∀ e ∈ s.events, e.resets = false) :
    ∃ k u, k ≤ s.events.length + 1 ∧ Sys2Proof.core.run k s = .next u ∧ u.gbusy = false ∧
      (u.chan s.pch).done = true := by
  induction he : s.events generalizing s with
  | nil =>
    obtain ⟨u, hturn, hu⟩ := engineTurn_completes s h hg
    have hstep : step s = .next u := by rw [step, nextMove, he]; exact hturn
    exact ⟨1, u, le_rfl, run_succ_of_step 0 s u hstep, hu⟩
  | cons e rest ih =>
    rw [he] at hevents
    obtain ⟨t, hmove, hcase⟩ :=
      takeEvent_pending e { s with events := rest } (s.events_inv rest h) hg (hevents e List.mem_cons_self)
    have hstep : step s = .next t := by rw [step, nextMove, he]; exact hmove
    rcases hcase with ⟨htg, hpch⟩ | hdone
    · have hrest : t.events = rest := by rw [step_events s t hstep, he]; rfl
      obtain ⟨k, u, hk, hrun, hu⟩ := ih t (everyStepKeepsTheInvariant s t h hstep) htg
        (hrest ▸ fun e' hm => hevents e' (List.mem_cons_of_mem e hm)) hrest
      exact ⟨k + 1, u, Nat.succ_le_succ hk, (run_succ_of_step k s t hstep).trans hrun, hpch ▸ hu⟩
    · exact ⟨1, t, Nat.le_add_left .., run_succ_of_step 0 s t hstep, hdone⟩

/-- Settles O8, by induction on the queue of moves: each move but a reset leaves the command pending or completes it. -/
theorem pendingCommandCompletes : Obligations.PendingCommandCompletes :=
  fun s h => ⟨run_leaves_idle s h, run_completes s h⟩

end Sys2Proof.Machine

/-! PROOFS. The command encoding (30_encoding.md): the fields of a command word, the decoder and the encoder as inverses, the
opcode table, and the illegal words. -/

namespace Sys2Proof.Laws.RowMatch

/-- The statement for every command, from the lemma of its constructor. -/
theorem every (i : Instr) : Statement i :=
  match i with
  | .ldivCbc => ldivCbc
  | .ldivCfb => ldivCfb
  | .ldivOfb => ldivOfb
  | .ldivCtr => ldivCtr
  | .chrst => chrst
  | .encEcb len => encEcb len
  | .decEcb len => decEcb len
  | .encfEcb len => encfEcb len
  | .decfEcb len => decfEcb len
  | .encCbc len => encCbc len
  | .decCbc len => decCbc len
  | .encfCbc len => encfCbc len
  | .decfCbc len => decfCbc len
  | .encCfb len => encCfb len
  | .decCfb len => decCfb len
  | .encOfb len => encOfb len
  | .decOfb len => decOfb len
  | .encCtr len => encCtr len
  | .decCtr len => decCtr len
  | .derive => derive
  | .macuCmac len => macuCmac len
  | .macfCmac len => macfCmac len

end Sys2Proof.Laws.RowMatch

namespace Sys2Proof.Machine

/-! ### The fields of a command word (R110, R117) -/

theorem toNat_command (op mode len : Nat) (hop : op < 16) (hmode : mode < 8) (hlen : len < 32) :
    (command op mode len).toNat = op + 16 * mode + 256 * len := by
  rw [command, BitVec.toNat_ofNat, Nat.mod_eq_of_lt (by omega)]

/-- Each operand stands in its own field, and the reserved bits are 0. -/
theorem field_command (op mode len : Nat) (hop : op < 16) (hmode : mode < 8) (hlen : len < 32) :
    field (command op mode len) 0 4 = op ∧ field (command op mode len) 4 3 = mode ∧
      field (command op mode len) 8 5 = len ∧ field (command op mode len) 7 1 = 0 ∧
      field (command op mode len) 13 19 = 0 := by
  simp only [field, toNat_command op mode len hop hmode hlen]
  omega

/-- A word whose reserved bits are 0 is the command of its three fields. -/
theorem command_field (w : Word) (h7 : field w 7 1 = 0) (h13 : field w 13 19 = 0) :
    command (field w 0 4) (field w 4 3) (field w 8 5) = w := by
  apply BitVec.eq_of_toNat_eq
  rw [toNat_command _ _ _ (field_lt w 0 4) (field_lt w 4 3) (field_lt w 8 5)]
  simp only [field] at *
  omega

/-! ### The decoder and the encoder (R111 to R114) -/

/-- OP, MODE and LEN as a row of R114 has them: LDIV, the four data operations by their modes, CMAC, DERIVE and CHRST. -/
def LegalFields (op mode len : Nat) : Prop :=
  (op = 1 ∧ (1 ≤ mode ∧ mode ≤ 4) ∧ len = 0) ∨ ((op = 2 ∨ op = 3) ∧ mode ≤ 4) ∨ ((op = 4 ∨ op = 5) ∧ mode ≤ 1) ∨
    ((op = 6 ∨ op = 7) ∧ mode = 5) ∨ ((op = 8 ∨ op = 9) ∧ mode = 0 ∧ len = 0)

theorem takesNoLen_eq_ok_iff (len : Nat) (i j : Instr) : takesNoLen len i = .ok j ↔ len = 0 ∧ i = j := by
  unfold takesNoLen
  split <;> simp [*]

theorem decode_eq_ok_iff (w : Word) (i : Instr) :
    decode w = .ok i ↔
      field w 7 1 = 0 ∧ field w 13 19 = 0 ∧ decodeFields (field w 0 4) (field w 4 3) (field w 8 5) = .ok i := by
  unfold decode
  split
  next hres => exact iff_of_false (by simp) fun ⟨h7, h13, _⟩ => hres.elim (· h7) (· h13)
  next hres =>
    obtain ⟨h7, h13⟩ := not_or.1 hres
    exact ⟨fun h => ⟨not_not.1 h7, not_not.1 h13, h⟩, fun ⟨_, _, h⟩ => h⟩

/-- A well-formed command is encoded from the OP, MODE and LEN that decode to it. -/
theorem encode_spec (i : Instr) (h : i.WellFormed) :
    ∃ op mode len, op < 16 ∧ mode < 8 ∧ len < 32 ∧ encode i = command op mode len ∧
      decodeFields op mode len = .ok i := by
  cases i with
  | ldivCbc | ldivCfb | ldivOfb | ldivCtr | chrst | derive =>
    exact ⟨_, _, _, by decide, by decide, by decide, rfl, rfl⟩
  | encEcb n | decEcb n | encfEcb n | decfEcb n | encCbc n | decCbc n | encfCbc n | decfCbc n | encCfb n | decCfb n
  | encOfb n | decOfb n | encCtr n | decCtr n | macuCmac n | macfCmac n =>
    exact ⟨_, _, n, by decide, by decide, of_decide_eq_true h, rfl, rfl⟩

/-- What the rows of R114 can decode: legal fields, and the command encoded from the same OP, MODE and LEN. -/
theorem decodeFields_ok (op mode len : Nat) (i : Instr) (h : decodeFields op mode len = .ok i) (hlen : len < 32) :
    LegalFields op mode len ∧ i.WellFormed ∧ encode i = command op mode len := by
  unfold decodeFields at h
  split at h
  case h_1 | h_2 | h_3 | h_4 | h_21 | h_22 =>
    obtain ⟨rfl, rfl⟩ := (takesNoLen_eq_ok_iff _ _ _).1 h
    exact ⟨by simp [LegalFields], rfl, rfl⟩
  case h_23 => cases h
  all_goals
    cases h
    exact ⟨by simp [LegalFields], decide_eq_true hlen, rfl⟩

/-- Settles O2: the word's fields are the command's own, and its reserved bits are 0. -/
theorem decodeOfEncodeGivesTheCommand : Obligations.DecodeOfEncodeGivesTheCommand := by
  intro i h
  obtain ⟨op, mode, len, hop, hmode, hlen, hword, hrow⟩ := encode_spec i h
  obtain ⟨fop, fmode, flen, f7, f13⟩ := field_command op mode len hop hmode hlen
  rw [hword, decode_eq_ok_iff, fop, fmode, flen]
  exact ⟨f7, f13, hrow⟩

/-- Settles O3: the command is encoded from the word's fields, and those are the whole word. -/
theorem encodeOfDecodeGivesTheWord : Obligations.EncodeOfDecodeGivesTheWord := by
  intro w i h
  obtain ⟨h7, h13, hrow⟩ := (decode_eq_ok_iff w i).1 h
  obtain ⟨-, hwf, hword⟩ := decodeFields_ok _ _ _ i hrow (field_lt w 8 5)
  exact ⟨hwf, hword.trans (command_field w h7 h13)⟩

/-- Settles O1: the decoder evaluated on each word. -/
theorem sampleWordsDecode : Obligations.SampleWordsDecode := by
  unfold Obligations.SampleWordsDecode
  decide

/-! ### The opcode table (R114) -/

theorem field_and (a b : Word) (lo n : Nat) : field (a &&& b) lo n = field a lo n &&& field b lo n :=
  Nat.eq_of_testBit_eq fun k => by
    simp only [testBit_field, BitVec.getLsbD_and, Nat.testBit_and]
    cases decide (k < n) <;> simp

/-- A field whose mask bits are all 1 passes the mask. -/
theorem field_and_of_ones (w m : Word) (lo n : Nat) (h : field m lo n = 2 ^ n - 1) :
    field (w &&& m) lo n = field w lo n := by
  rw [field_and, h, Nat.and_two_pow_sub_one_of_lt_two_pow (field_lt w lo n)]

/-- A word that matches a row whose mask is all 1 is the row's word. -/
theorem decode_of_and_allOnes (w m : Word) (i : Instr) (h : w &&& 0xFFFFFFFF = m) (hm : decode m = .ok i) :
    decode w = .ok i := by
  rw [← h] at hm
  rwa [show w &&& 0xFFFFFFFF = w from BitVec.and_allOnes] at hm

/-- A word that matches a row whose mask leaves LEN out decodes by the row's OP and MODE and its own LEN. -/
theorem decode_of_and_lenMask (w m : Word) (i : Instr) (h : w &&& 0xFFFFE0FF = m) (h7 : field m 7 1 = 0)
    (h13 : field m 13 19 = 0) (hi : decodeFields (field m 0 4) (field m 4 3) (field w 8 5) = .ok i) :
    decode w = .ok i := by
  subst h
  rw [field_and_of_ones _ _ _ _ (by decide)] at h7 h13
  rw [field_and_of_ones _ _ _ _ (by decide), field_and_of_ones _ _ _ _ (by decide)] at hi
  exact (decode_eq_ok_iff w i).2 ⟨h7, h13, hi⟩

/-- A word that matches a command's row decodes to a command of that row. -/
theorem decode_of_matches_row (i : Instr) (w : Word) (h : w &&& (opcodeRow i).2 = (opcodeRow i).1) :
    ∃ j, decode w = .ok j ∧ opcodeRow j = opcodeRow i := by
  cases i with
  | ldivCbc | ldivCfb | ldivOfb | ldivCtr | chrst | derive =>
    exact ⟨_, decode_of_and_allOnes w _ _ h rfl, rfl⟩
  | encEcb n | decEcb n | encfEcb n | decfEcb n | encCbc n | decCbc n | encfCbc n | decfCbc n | encCfb n | decCfb n
  | encOfb n | decOfb n | encCtr n | decCtr n | macuCmac n | macfCmac n =>
    simp only [opcodeRow] at h
    have hj := decode_of_and_lenMask w _ _ h rfl rfl rfl
    exact ⟨_, hj, rfl⟩

/-- A decoded word matches the row of its command. -/
theorem matches_row_of_decode (i : Instr) (w : Word) (h : decode w = .ok i) :
    w &&& (opcodeRow i).2 = (opcodeRow i).1 := by
  obtain ⟨hwf, rfl⟩ := encodeOfDecodeGivesTheWord w i h
  exact (Laws.RowMatch.every i hwf).1

theorem opcodeRow_mem (i : Instr) : opcodeRow i ∈ opcodeRows := by
  cases i <;> simp [opcodeRows, opcodeRow]

theorem exists_opcodeRow_of_mem (r : Word × Word) (h : r ∈ opcodeRows) : ∃ i, opcodeRow i = r := by
  obtain ⟨i, -, hi⟩ := List.mem_map.1 h
  exact ⟨i, hi⟩

/-- Settles O4: a word that matches a row decodes to a command of that row, and it decodes to one command only. -/
theorem decodeFollowsTheOpcodeTable : Obligations.DecodeFollowsTheOpcodeTable := by
  refine fun w => ⟨fun r hr r' hr' hm hm' => ?_, ⟨fun ⟨i, hi⟩ => ?_, fun ⟨r, hr, hm⟩ => ?_⟩, fun i hi => ?_⟩
  · obtain ⟨i, rfl⟩ := exists_opcodeRow_of_mem r hr
    obtain ⟨i', rfl⟩ := exists_opcodeRow_of_mem r' hr'
    obtain ⟨j, hj, hrow⟩ := decode_of_matches_row i w hm
    obtain ⟨j', hj', hrow'⟩ := decode_of_matches_row i' w hm'
    cases hj.symm.trans hj'
    exact hrow.symm.trans hrow'
  · exact ⟨_, opcodeRow_mem i, matches_row_of_decode i w hi⟩
  · obtain ⟨i, rfl⟩ := exists_opcodeRow_of_mem r hr
    obtain ⟨j, hj, -⟩ := decode_of_matches_row i w hm
    exact ⟨j, hj⟩
  · exact ⟨opcodeRow_mem i, matches_row_of_decode i w hi⟩

/-! ### The illegal words (R115) -/

/-- Every row of R114 with legal fields decodes. -/
theorem decodeFields_of_legal (op mode len : Nat) (h : LegalFields op mode len) :
    ∃ i, decodeFields op mode len = .ok i := by
  rcases h with ⟨rfl, ⟨hlo, hhi⟩, rfl⟩ | ⟨rfl | rfl, hhi⟩ | ⟨rfl | rfl, hhi⟩ | ⟨rfl | rfl, rfl⟩ | ⟨rfl | rfl, rfl, rfl⟩
  case inr.inr.inr.inl.inl | inr.inr.inr.inl.inr | inr.inr.inr.inr.inl | inr.inr.inr.inr.inr => exact ⟨_, rfl⟩
  all_goals interval_cases mode <;> exact ⟨_, rfl⟩

/-- The words that decode are those with reserved bits 0 and legal fields. -/
theorem decode_ok_iff (w : Word) :
    (∃ i, decode w = .ok i) ↔
      field w 7 1 = 0 ∧ field w 13 19 = 0 ∧ LegalFields (field w 0 4) (field w 4 3) (field w 8 5) := by
  simp only [decode_eq_ok_iff, exists_and_left]
  refine and_congr_right' (and_congr_right' ⟨fun ⟨i, hi⟩ => ?_, decodeFields_of_legal _ _ _⟩)
  exact (decodeFields_ok _ _ _ i hi (field_lt w 8 5)).1

theorem decode_error_iff (w : Word) : (∃ r, decode w = .error r) ↔ ¬∃ i, decode w = .ok i := by
  cases decode w <;> simp

/-- When the engine's move comes, the step is the engine's turn with that move used up (R90, R141). -/
theorem step_of_engineDue (s : State) (h : s.EngineDue) : step s = engineTurn s.popEvent := by
  obtain ⟨-, -, he | he⟩ := h
  · have hpop : s.popEvent = s := by rw [State.popEvent, he, List.tail_nil, ← he]
    rw [step, nextMove, he, hpop]
  · obtain ⟨rest, he⟩ := List.head?_eq_some_iff.1 he
    rw [step, nextMove, he, State.popEvent, he]; rfl

/-- Settles O5: R115's list is, operation by operation, the complement of the legal fields, and the engine's turn on an
illegal word is the error completion. -/
theorem illegalWordsRaiseIllegalCommand : Obligations.IllegalWordsRaiseIllegalCommand := by
  refine ⟨fun w => ?_, fun s r hdue hr => ?_⟩
  · have hop : field w 0 4 < 16 := field_lt w 0 4
    have hmode : field w 4 3 < 8 := field_lt w 4 3
    have hbit : field w 7 1 < 2 := field_lt w 7 1
    rw [decode_error_iff, decode_ok_iff, LegalFields]
    generalize field w 0 4 = op, field w 4 3 = mode, field w 8 5 = len, field w 7 1 = bit, field w 13 19 = high at *
    interval_cases op <;> grind
  · have hready : s.popEvent.engineReady = true := by
      obtain ⟨hg, hlow, -⟩ := hdue
      simp [State.engineReady, State.popEvent, hg, hlow]
    have hfetch : s.popEvent.fetch = .error r := hr
    rw [step_of_engineDue s hdue, engineTurn, if_pos hready, hfetch]
    exact congrArg Host.Outcome.next (s.popEvent.complete_raiseErr _ _)

end Sys2Proof.Machine

/-! PROOFS. The step's dispatch, command acceptance and the padding (R140, R141, R148, R149). -/

namespace Sys2Proof.Machine

/-- Settles O6: the engine's turn runs the fetched command, since it is enabled and the pending word decodes. -/
theorem stepRunsTheDecodedCommand : Obligations.StepRunsTheDecodedCommand := by
  intro s i hdue hi
  have hready : s.popEvent.engineReady = true := by
    obtain ⟨hg, hlow, -⟩ := hdue
    simp [State.engineReady, State.popEvent, hg, hlow]
  have hfetch : s.popEvent.fetch = .ok i := hi
  rw [step_of_engineDue s hdue, engineTurn, if_pos hready, hfetch]

/-- Settles O18: offset 0x04 of a present bank is CMD, and above the banks the window is reserved. -/
theorem cmdWriteIsAcceptedOrDropped : Obligations.CmdWriteIsAcceptedOrDropped := by
  intro s c v ch
  refine ⟨fun hc => s.writeWindow_chan c 0x04 v hc (by decide), fun hc => ?_⟩
  rw [State.writeWindow, regAt_absent s.params _ (by omega)]; rfl

/-- The last BS − n bytes of a padded segment of n bytes hold BS − n (R148). -/
theorem padIs_pad (bs : Nat) (x : Block) (n : Nat) (hn : n < bs) (hx : n ≤ x.length) :
    PadIs bs (pad bs x n) (bs - n) := by
  refine ⟨by omega, Nat.sub_le .., fun i hi hge => ?_⟩
  have htake : (x.take n).length = n := List.length_take_of_le hx
  rw [pad, List.getD_append_right _ _ _ _ (by omega), List.getD_replicate _ (by omega)]

/-- Settles O60: the pad is well-formed with length BS − n, so unpadding keeps the first n bytes. -/
theorem unpadInvertsPad : Obligations.UnpadInvertsPad := by
  intro bs x n hbs hn hx
  have hlen := length_pad bs x n hn.le hx
  obtain ⟨hgood, -⟩ := unpad_spec bs hbs (pad bs x n) hlen
  have hsub : bs - (bs - n) = n := Nat.sub_sub_self hn.le
  refine ⟨hlen, ?_⟩
  rw [hgood _ (padIs_pad bs x n hn hx), hsub, pad, List.take_left' (List.length_take_of_le hx)]

end Sys2Proof.Machine

/-! PROOFS. The checks of a data command and its binding (R142 to R146). -/

namespace Sys2Proof.Machine

/-- A result that raises an error completes as the error completion, with its calls on record (R143). -/
theorem State.complete_of_error (s : State) (r : CmdResult) (e : ErrCode) (h : r.result = .error e) :
    s.complete r = s.failed r.calls e := by
  obtain ⟨calls, result⟩ := r
  subst h; rfl

/-! ### What an effect leaves of ERR and of the binding (R142, R146) -/

/-- A channel with the ERR, ERRCODE, DIRV and DIR of another: what an effect leaves before it binds (R142). -/
abbrev Channel.SameErrAndDir (base ch : Channel) : Prop :=
  base.err = ch.err ∧ base.errCode = ch.errCode ∧ base.dirv = ch.dirv ∧ base.dir = ch.dir

/-- What the effect of a data command gives: InvalidPadding in DECF, or the binding of a channel that has ERR, ERRCODE and the
direction as they were (R142, R146). -/
def State.Binds (s : State) (op : DataOp) (m : Mode) (r : CmdResult) : Prop :=
  (op = .decf ∧ r.result = .error .invalidPadding) ∨
    ∃ (base : Channel) (cnt : List Block), r.result = .ok { chan := base.commit m op.dir, cnt := cnt, ctrv := s.ctrv } ∧
      base.SameErrAndDir s.cur

theorem State.binds_writesChan (s : State) (op : DataOp) (m : Mode) (calls : List PrimCall) (base : Channel)
    (h : base.SameErrAndDir s.cur) : s.Binds op m (s.writesChan calls (base.commit m op.dir)) :=
  .inr ⟨base, s.cnt, rfl, h⟩

/-- A final block binds, or its pad is malformed (R193, R203). -/
theorem State.binds_finishUnpad (s : State) (m : Mode) (calls : List PrimCall) (base : Channel) (x : Block)
    (h : base.SameErrAndDir s.cur) : s.Binds .decf m (s.finishUnpad calls base m x) := by
  unfold State.finishUnpad
  split
  · exact .inl ⟨rfl, rfl⟩
  · exact s.binds_writesChan .decf m calls _ h

/-- A stream segment binds (R152). -/
theorem State.binds_streamSeg (s : State) (op : DataOp) (m : StreamMode) (len : Nat) :
    s.Binds op (streamMode m) (s.streamSeg m op.dir len s.cur) := by
  cases m <;> exact .inr ⟨_, _, rfl, rfl, rfl, rfl, rfl⟩

/-- The lazy derivation of the subkeys writes K1, K2 and SKV alone (R242, R246). -/
theorem Channel.withSubkeys_eq (ch : Channel) (p : Params) :
    ∃ k1 k2 skv, ch.withSubkeys p = { ch with k1 := k1, k2 := k2, skv := skv } := by
  unfold Channel.withSubkeys
  split
  · exact ⟨ch.k1, ch.k2, ch.skv, rfl⟩
  · exact ⟨_, _, _, rfl⟩

/-- The effect of every data command binds, or is a DECF's InvalidPadding (R142, R146). -/
theorem exec_binds (i : Instr) (s : State) (op : DataOp) (m : Mode) (len : Nat) (h : i.dataForm = some (op, m, len)) :
    ∃ effect, exec i s = .next (s.runData op m len effect) ∧ s.Binds op m (effect s.cur) := by
  cases i <;> cases h <;> refine ⟨_, rfl, ?_⟩
  case decfEcb | decfCbc => exact s.binds_finishUnpad _ _ _ _ ⟨rfl, rfl, rfl, rfl⟩
  case encCfb => exact s.binds_streamSeg .enc .cfb len
  case decCfb => exact s.binds_streamSeg .dec .cfb len
  case encOfb => exact s.binds_streamSeg .enc .ofb len
  case decOfb => exact s.binds_streamSeg .dec .ofb len
  case encCtr => exact s.binds_streamSeg .enc .ctr len
  case decCtr => exact s.binds_streamSeg .dec .ctr len
  case macfCmac =>
    obtain ⟨k1, k2, skv, hkey⟩ := s.cur.withSubkeys_eq s.params
    rw [hkey]
    exact s.binds_writesChan .macf .cmac _ _ ⟨rfl, rfl, rfl, rfl⟩
  all_goals exact s.binds_writesChan _ _ _ _ ⟨rfl, rfl, rfl, rfl⟩

/-- The effect of LDIV, CHRST and DERIVE sets neither ST nor DIRV, whether it raises an error or not (R146). -/
theorem exec_plain (i : Instr) (s : State) (h : i.dataForm = none) :
    ∃ effect, exec i s = .next (s.runPlain effect) ∧
      ((s.outcome (effect s.cur)).chan.st = true → s.cur.st = true) ∧
      ((s.outcome (effect s.cur)).chan.dirv = true → s.cur.dirv = true) := by
  cases i <;> cases h <;> refine ⟨_, rfl, ?_⟩
  case derive => dsimp only; split <;> exact ⟨id, id⟩
  all_goals exact ⟨Bool.false_ne_true.elim, Bool.false_ne_true.elim⟩

/-! ### The checks of a data command (R144, R145) -/

theorem bindsDir_iff (m : Mode) : bindsDir m = true ↔ m = .cbc ∨ m = .cfb ∨ m = .ofb := by cases m <;> simp [bindsDir]

theorem ivMissing_iff (ch : Channel) (ctrLoaded : Bool) (m : Mode) :
    ivMissing ch ctrLoaded m = true ↔
      ((m = .cbc ∨ m = .cfb ∨ m = .ofb) ∧ ch.ivv = false) ∨ (m = .ctr ∧ ctrLoaded = false) := by
  cases m <;> simp [ivMissing]

/-- On the operations and modes of the opcode table the length check is R145's table. -/
theorem lenOk_iff (i : Instr) (bs : Nat) (cmip : Bool) (op : DataOp) (m : Mode) (len : Nat)
    (h : i.dataForm = some (op, m, len)) : lenOk bs cmip op m len = true ↔ LegalLen bs cmip op m len := by
  cases i <;> cases h
  case macfCmac => simp [lenOk, LegalLen, imp_iff_not_or]
  all_goals simp [lenOk, LegalLen]

/-- The checks of a data command, in their order and in R144's terms. -/
theorem dataCheck_eq (i : Instr) (p : Params) (ch : Channel) (ctrLoaded : Bool) (op : DataOp) (m : Mode) (len : Nat)
    (h : i.dataForm = some (op, m, len)) :
    dataCheck p ch ctrLoaded op m len =
      if ch.bmv = true ∧ ch.bmode ≠ m then some .modeMismatch
      else if keyOk p ch.keySlot = false then some .invalidKey
      else if ((m = .cbc ∨ m = .cfb ∨ m = .ofb) ∧ ch.ivv = false) ∨ (m = .ctr ∧ ctrLoaded = false) then
        some .missingIv
      else if (m = .cbc ∨ m = .cfb ∨ m = .ofb) ∧ ch.dirv = true ∧ ch.dir ≠ op.dir then some .directionMismatch
      else if ¬LegalLen p.bs ch.cmip op m len then some .invalidLength
      else none := by
  simp only [dataCheck, ivMissing_iff, Bool.and_eq_true, bne_iff_ne, Bool.not_eq_true', bindsDir_iff, and_assoc,
    ← lenOk_iff i p.bs ch.cmip op m len h, Bool.not_eq_true]

/-- Settles O32: the checks are R144's list, and past them the effect binds or is a DECF's InvalidPadding. -/
theorem firstFailingCheckDecides : Obligations.FirstFailingCheckDecides := by
  intro i s op m len hi h hf
  obtain ⟨effect, hexec, hbinds⟩ := exec_binds i s op m len hi
  have hcheck := dataCheck_eq i s.params s.cur (s.ctrLoaded s.cur) op m len hi
  have hrefused : ∀ e, dataCheck s.params s.cur (s.ctrLoaded s.cur) op m len = some e →
      exec i s = .next (s.failed [] e) := fun e hc => by
    rw [hexec, s.runData_refused op m len effect e hf hc]
  dsimp only
  split_ifs with h1 h2 h3 h4 h5
  · exact hrefused _ (by rw [hcheck, if_pos h1])
  · exact hrefused _ (by rw [hcheck, if_neg h1, if_pos h2])
  · exact hrefused _ (by rw [hcheck, if_neg h1, if_neg h2, State.ctrLoaded, if_pos h3])
  · exact hrefused _ (by rw [hcheck, if_neg h1, if_neg h2, State.ctrLoaded, if_neg h3, if_pos h4])
  · have hpass : dataCheck s.params s.cur (s.ctrLoaded s.cur) op m len = none := by
      rw [hcheck, if_neg h1, if_neg h2, State.ctrLoaded, if_neg h3, if_neg h4, if_neg (not_not.2 h5)]
    refine ⟨_, hexec.trans (by rw [s.runData_admitted op m len effect hf hpass]), ?_⟩
    rcases hbinds with ⟨hop, herror⟩ | ⟨base, cnt, hok, herr, hcode, -⟩
    · exact .inr ⟨hop, _, s.complete_of_error _ _ herror⟩
    · rw [s.cur_complete _ (s.pch_lt h), State.outcome, hok]
      exact .inl ⟨herr, hcode⟩
  · exact hrefused _ (by rw [hcheck, if_neg h1, if_neg h2, State.ctrLoaded, if_neg h3, if_neg h4, if_pos h5])

/-- The channel a data command leaves: that of an error completion, or the bound one (R143, R146). -/
theorem exec_data_cur (i : Instr) (s t : State) (op : DataOp) (m : Mode) (len : Nat) (hlt : s.pch < s.chans.length)
    (hi : i.dataForm = some (op, m, len)) (he : exec i s = .next t) :
    (∃ e, t.cur = { s.cur.raise e with done := true }) ∨
      ∃ base : Channel, t.cur = { base.commit m op.dir with done := true } ∧ base.SameErrAndDir s.cur := by
  obtain ⟨effect, hexec, hbinds⟩ := exec_binds i s op m len hi
  obtain rfl := Host.Outcome.next.inj (he.symm.trans hexec)
  rcases s.runData_cases op m len effect with ⟨e, -, hrun⟩ | ⟨-, -, hrun⟩ <;> rw [hrun, s.cur_complete _ hlt, State.outcome]
  · exact .inl ⟨e, rfl⟩
  · rcases hbinds with ⟨-, herror⟩ | ⟨base, cnt, hok, hsame⟩
    · rw [herror]; exact .inl ⟨_, rfl⟩
    · rw [hok]; exact .inr ⟨base, rfl, hsame⟩

/-- Settles O35: a data command that ends without error is past its effect, which binds; an error completion and the commands
without a data form leave ST and DIRV or clear them. -/
theorem onlySuccessfulDataCommandsBind : Obligations.OnlySuccessfulDataCommandsBind := by
  intro i s t h hg he
  have hlt := s.pch_lt h
  obtain ⟨-, hclear⟩ := s.chan_clear_of_busy s.pch h hg rfl
  cases hi : i.dataForm with
  | none =>
    obtain ⟨effect, hexec, hst, hdirv⟩ := exec_plain i s hi
    obtain rfl := Host.Outcome.next.inj (he.symm.trans hexec)
    refine ⟨fun _ _ _ hform => by simp at hform, fun _ => ?_⟩
    rcases s.runPlain_cases effect with ⟨e, -, hrun⟩ | ⟨-, hrun⟩ <;> rw [hrun, s.cur_complete _ hlt]
    · exact ⟨id, id⟩
    · exact ⟨hst, hdirv⟩
  | some form =>
    obtain ⟨op, m, len⟩ := form
    obtain ⟨e, hcur⟩ | ⟨base, hcur, herr, -, hdirv, hdir⟩ := exec_data_cur i s t op m len hlt hi he
    · rw [hcur]
      exact ⟨fun _ _ _ _ hok => by simp at hok, fun _ => ⟨id, id⟩⟩
    · rw [hcur]
      refine ⟨fun _ _ _ hform _ => ?_, fun hbad => ?_⟩
      · cases hform
        simp only [← bindsDir_iff]
        refine ⟨rfl, rfl, rfl, ?_⟩
        split
        next hm => exact ⟨if_pos hm, if_pos hm⟩
        next hm => exact ⟨(if_neg hm).trans hdirv, (if_neg hm).trans hdir⟩
      · have hraised : base.err = true := hbad.resolve_left (by simp)
        exact absurd hraised (Bool.eq_false_iff.1 (herr.trans hclear))

end Sys2Proof.Machine

/-! PROOFS. Every command is its checks and its effect (R141, R144): one form for the data commands and the others. -/

namespace Sys2Proof.Machine

/-- The engine step of a command with the given effect: FATAL, for a data command R144's checks, then the effect. -/
abbrev State.runCommand (s : State) (i : Instr) (effect : Channel → CmdResult) : State :=
  match i.dataForm with
  | none => s.runPlain effect
  | some (op, m, len) => s.runData op m len effect

/-- The command is past FATAL and, if it is a data command, past every check of R144. -/
abbrev State.Passes (s : State) (i : Instr) : Prop :=
  s.fatal = false ∧
    ∀ op m len, i.dataForm = some (op, m, len) → dataCheck s.params s.cur (s.ctrLoaded s.cur) op m len = none

/-- A command fails before its effect, without a primitive call, or completes its effect. -/
theorem State.runCommand_cases (s : State) (i : Instr) (effect : Channel → CmdResult) :
    (∃ e, s.runCommand i effect = s.failed [] e) ∨
      (s.Passes i ∧ s.runCommand i effect = s.complete (effect s.cur)) := by
  unfold State.runCommand State.Passes
  cases i.dataForm with
  | none =>
    rcases s.runPlain_cases effect with ⟨e, -, h⟩ | ⟨hf, h⟩
    · exact .inl ⟨e, h⟩
    · exact .inr ⟨⟨hf, by simp⟩, h⟩
  | some form =>
    obtain ⟨op, m, len⟩ := form
    rcases s.runData_cases op m len effect with ⟨e, -, h⟩ | ⟨hf, hc, h⟩
    · exact .inl ⟨e, h⟩
    · exact .inr ⟨⟨hf, fun _ _ _ he => by cases he; exact hc⟩, h⟩

end Sys2Proof.Machine

/-! PROOFS. The primitive port (R95, R147): which calls each command makes, and how the port carries them. -/

namespace Sys2Proof.Machine

/-! ### The calls of an effect (R147, R156) -/

/-- A primitive call R147 allows to the command i: with a valid key, the channel's slot and a block of BS bytes, and D in DEC and
DECF of ECB and CBC alone. -/
abbrev State.CallOk (s : State) (i : Instr) (call : PrimCall) : Prop :=
  keyOk s.params s.cur.keySlot = true ∧ call.slot = s.cur.keySlot ∧ call.input.length = s.params.bs ∧
    (call.op = .decrypt → ∃ n, i = .decEcb n ∨ i = .decfEcb n ∨ i = .decCbc n ∨ i = .decfCbc n)

/-- The calls of one command: each allowed, and at most one, or two in MACF. -/
def State.CallsOk (s : State) (i : Instr) (calls : List PrimCall) : Prop :=
  (∀ call ∈ calls, s.CallOk i call) ∧ (calls.length ≤ 1 ∨ (calls.length = 2 ∧ ∃ n, i = .macfCmac n))

theorem State.callsOk_nil (s : State) (i : Instr) : s.CallsOk i [] := ⟨by simp, by simp⟩

theorem State.callsOk_singleton (s : State) (i : Instr) (call : PrimCall) (h : s.CallOk i call) : s.CallsOk i [call] :=
  ⟨by simpa using h, .inl le_rfl⟩

section
variable (s : State) (i : Instr) (x : Block) (hk : keyOk s.params s.cur.keySlot = true) (hx : x.length = s.params.bs)
include hk hx

/-- Every command may call E. -/
theorem State.encCall_ok : s.CallOk i (encCall s.cur.keySlot x) := ⟨hk, rfl, hx, nofun⟩

theorem State.callsOk_enc : s.CallsOk i [encCall s.cur.keySlot x] := s.callsOk_singleton i _ (s.encCall_ok i x hk hx)

theorem State.callsOk_dec (hi : ∃ n, i = .decEcb n ∨ i = .decfEcb n ∨ i = .decCbc n ∨ i = .decfCbc n) :
    s.CallsOk i [decCall s.cur.keySlot x] := s.callsOk_singleton i _ ⟨hk, rfl, hx, fun _ => hi⟩

end

/-- A final block makes the calls it is given, whether its pad is good or malformed (R150). -/
theorem State.finishUnpad_calls (s : State) (calls : List PrimCall) (base : Channel) (m : Mode) (x : Block) :
    (s.finishUnpad calls base m x).calls = calls := by
  unfold State.finishUnpad
  split <;> rfl

/-- A refill makes one call, on CHAIN or on the counter (R210, R220, R231). -/
theorem refill_calls (p : Params) (slot : BitVec 8) (m : StreamMode) (r : StreamRegs) :
    ∃ x, (x = r.chain ∨ x = r.ctr) ∧ (refill p slot m r).calls = r.calls ++ [encCall slot x] := by
  cases m with
  | cfb | ofb => exact ⟨r.chain, .inl rfl, rfl⟩
  | ctr => exact ⟨r.ctr, .inr rfl, rfl⟩

/-- A segment of 0 to BS bytes makes at most one call, on a block (R156). -/
theorem streamBytes_calls (p : Params) (slot : BitVec 8) (m : StreamMode) (d : Dir) (r : StreamRegs) (seg : Block)
    (hcalls : r.calls = []) (hbs : 2 ≤ p.bs) (hlen : seg.length ≤ p.bs) (hk : r.kpos < p.bs) (hks : r.ks.length = p.bs)
    (hch : r.chain.length = p.bs) (hct : r.ctr.length = p.bs) :
    (streamBytes p slot m d r seg).calls = [] ∨
      ∃ x, x.length = p.bs ∧ (streamBytes p slot m d r seg).calls = [encCall slot x] := by
  generalize hheld : (if r.kpos = 0 then 0 else min seg.length (p.bs - r.kpos)) = held
  rw [streamBytes_segment p slot m d r seg held hheld.symm hk hbs hlen hks hch hct]
  split
  · exact .inl hcalls
  · have hfirst : streamBytes p slot m d r (seg.take held) = servedBy p m d r (seg.take held) := by
      refine streamBytes_held p slot m d r _ ?_ hk ?_ hks hch
      · by_cases h0 : r.kpos = 0
        · exact .inr (by simp [← hheld, h0])
        · exact .inl h0
      · split at hheld <;> simp only [List.length_take] <;> omega
    obtain ⟨-, -, hchain, -⟩ := streamBytes_keeps p slot m d r (seg.take held) hk hks hch hct
    rw [hfirst] at hchain
    obtain ⟨x, hx, hone⟩ := refill_calls p slot m (servedBy p m d r (seg.take held))
    have hone' := hone.trans (congrArg (· ++ [encCall slot x]) hcalls)
    rcases hx with rfl | rfl
    · exact .inr ⟨_, hchain, hone'⟩
    · exact .inr ⟨_, hct, hone'⟩

/-- The calls of a stream command past its checks (R147, R152). -/
theorem State.streamSeg_callsOk (s : State) (i : Instr) (m : StreamMode) (d : Dir) (len : Nat) (h : s.Inv)
    (hk : keyOk s.params s.cur.keySlot = true) (hlen : len ≤ s.params.bs) :
    s.CallsOk i (s.streamSeg m d len s.cur).calls := by
  obtain ⟨⟨-, hdin, -, hchain, hks, -⟩, -, ⟨-, ⟨hkpos, -⟩, -⟩, -⟩ := s.cur_inv h
  have hbs : 2 ≤ s.params.bs := by
    obtain ⟨⟨hbs, -⟩, -⟩ := h
    omega
  have hseg : (s.cur.segment len).length ≤ s.params.bs := (List.length_take_le ..).trans hlen
  have hcalls : (s.streamSeg m d len s.cur).calls =
      (streamBytes s.params s.cur.keySlot m d (s.streamStart s.cur) (s.cur.segment len)).calls := by cases m <;> rfl
  rw [hcalls]
  rcases streamBytes_calls s.params s.cur.keySlot m d (s.streamStart s.cur) (s.cur.segment len) rfl hbs hseg hkpos hks hchain
    (s.length_counter h) with hnone | ⟨x, hx, hone⟩
  · rw [hnone]; exact s.callsOk_nil i
  · rw [hone]; exact s.callsOk_enc i x hk hx

/-- MACF may call E for the subkeys before it calls E for the tag (R246). -/
theorem State.macf_callsOk (s : State) (len : Nat) (x : Block) (hk : keyOk s.params s.cur.keySlot = true)
    (hx : x.length = s.params.bs) :
    s.CallsOk (.macfCmac len) (s.cur.subkeyCalls s.params ++ [encCall s.cur.keySlot x]) := by
  unfold Channel.subkeyCalls
  split
  · exact s.callsOk_enc _ x hk hx
  · have hsub := s.encCall_ok (.macfCmac len) (zeros s.params.bs) hk List.length_replicate
    have htag := s.encCall_ok (.macfCmac len) x hk hx
    exact ⟨List.forall_mem_cons.2 ⟨hsub, List.forall_mem_singleton.2 htag⟩, .inr ⟨rfl, len, rfl⟩⟩

/-- Past the checks, every command makes the calls R147 allows it. -/
theorem exec_calls (i : Instr) (s : State) (h : s.Inv) :
    ∃ effect, exec i s = .next (s.runCommand i effect) ∧ (s.Passes i → s.CallsOk i (effect s.cur).calls) := by
  have hsized := (s.cur_inv h).1
  obtain ⟨-, hdin, -, hchain, -⟩ := hsized
  have hpad : ∀ len, len < s.params.bs → (s.cur.padded s.params.bs len).length = s.params.bs := fun len hl =>
    length_pad _ _ _ hl.le (hdin ▸ hl.le)
  have hxor : ∀ x : Block, x.length = s.params.bs → (xorBlock s.cur.chain x).length = s.params.bs := fun x hx => by
    rw [length_xorBlock, hchain, hx, Nat.min_self]
  have hpassed : ∀ op m len, i.dataForm = some (op, m, len) → s.Passes i →
      keyOk s.params s.cur.keySlot = true ∧ lenOk s.params.bs s.cur.cmip op m len = true := fun op m len hi hp => by
    obtain ⟨-, hk, -, -, hl⟩ := dataCheck_passed _ _ _ _ _ _ (hp.2 op m len hi)
    exact ⟨hk, hl⟩
  cases i <;> refine ⟨_, rfl, fun hp => ?_⟩
  case derive =>
    dsimp only
    split
    next hk => exact s.callsOk_enc _ _ hk List.length_replicate
    next => exact s.callsOk_nil _
  case ldivCbc | ldivCfb | ldivOfb | ldivCtr | chrst => exact s.callsOk_nil _
  all_goals obtain ⟨hk, hl⟩ := hpassed _ _ _ rfl hp
  case encEcb len => exact s.callsOk_enc _ _ hk hdin
  case decEcb len => exact s.callsOk_dec _ _ hk hdin ⟨len, .inl rfl⟩
  case encfEcb len => exact s.callsOk_enc _ _ hk (hpad len (of_decide_eq_true hl))
  case decfEcb len => rw [s.finishUnpad_calls]; exact s.callsOk_dec _ _ hk hdin ⟨len, .inr (.inl rfl)⟩
  case encCbc len => exact s.callsOk_enc _ _ hk (hxor _ hdin)
  case decCbc len => exact s.callsOk_dec _ _ hk hdin ⟨len, .inr (.inr (.inl rfl))⟩
  case encfCbc len => exact s.callsOk_enc _ _ hk (hxor _ (hpad len (of_decide_eq_true hl)))
  case decfCbc len => rw [s.finishUnpad_calls]; exact s.callsOk_dec _ _ hk hdin ⟨len, .inr (.inr (.inr rfl))⟩
  case macuCmac len =>
    exact s.callsOk_enc _ _ hk (by rw [length_xorBlock, s.cur.length_macChain _ (s.cur_inv h).1, hdin, Nat.min_self])
  case macfCmac len =>
    have hlen : len ≤ s.params.bs := of_decide_eq_true (Bool.and_eq_true_iff.1 hl).1
    have hkeys := s.cur.withSubkeys_inv _ (s.cur_inv h) hk
    exact s.macf_callsOk len _ hk (by
      rw [length_xorBlock, s.cur.length_macChain _ (s.cur_inv h).1, Channel.length_macFinal _ _ len hkeys.1 hlen, Nat.min_self])
  case encCfb len => exact s.streamSeg_callsOk _ .cfb .encrypt len h hk (of_decide_eq_true hl)
  case decCfb len => exact s.streamSeg_callsOk _ .cfb .decrypt len h hk (of_decide_eq_true hl)
  case encOfb len => exact s.streamSeg_callsOk _ .ofb .encrypt len h hk (of_decide_eq_true hl)
  case decOfb len => exact s.streamSeg_callsOk _ .ofb .decrypt len h hk (of_decide_eq_true hl)
  case encCtr len => exact s.streamSeg_callsOk _ .ctr .encrypt len h hk (of_decide_eq_true hl)
  case decCtr len => exact s.streamSeg_callsOk _ .ctr .decrypt len h hk (of_decide_eq_true hl)

/-! ### The port (R95) -/

theorem primOpBit_iff (c : PrimCall) : primOpBit c = true ↔ c.op = .decrypt := by simp [primOpBit]

/-- Settles O36: a failed check leaves no call; past the checks the calls are those of the effect, and the port packs their
blocks lane by lane. -/
theorem primitivePortContract : Obligations.PrimitivePortContract := by
  intro i s t h he
  obtain ⟨effect, hexec, hcalls⟩ := exec_calls i s h
  obtain rfl := Host.Outcome.next.inj (he.symm.trans hexec)
  rcases s.runCommand_cases i effect with ⟨e, hrun⟩ | ⟨hpass, hrun⟩ <;> rw [hrun]
  · exact ⟨by simp [State.failed], .inl (Nat.zero_le 1)⟩
  · obtain ⟨hall, hcount⟩ := hcalls hpass
    refine ⟨fun call hmem => ?_, hcount⟩
    obtain ⟨hk, hslot, hin, hdec⟩ := hall call hmem
    have hout : (call.answer s.params).length = s.params.bs := (length_answer s.params call).trans hin
    exact ⟨hpass.1, hk, hslot, hin, hdec, primOpBit_iff call, hout, fun k hlt =>
      ⟨packBlock_lane _ _ k hin hlt, packBlock_lane _ _ k hout hlt⟩⟩

end Sys2Proof.Machine

/-! PROOFS. The frame of a command (R156): what each leaves unchanged in its counter, its channel and the rest of the block. -/

namespace Sys2Proof.Machine

/-! ### R156's table -/

/-- The counters and CTRV bits a command leaves: all but the selected one, and that one too in the commands that write none. -/
def State.CounterFrame (s : State) (i : Instr) (w : Writes) : Prop :=
  (∀ k, k ≠ s.cur.ctrSel.toNat → w.cnt.getD k [] = s.cnt.getD k [] ∧ w.ctrv.getD k false = s.ctrv.getD k false) ∧
    ((i = .ldivCtr ∨ (∃ n, i = .encCtr n) ∨ ∃ n, i = .decCtr n) ∨ w.cnt = s.cnt) ∧
    (i = .ldivCtr ∨ w.ctrv = s.ctrv)

/-- What a command leaves of its channel `old`, by R156's table; `new` is the channel it writes. -/
def Channel.Frame (i : Instr) (old new : Channel) : Prop :=
  (new.keySlot = old.keySlot ∧ new.ctrSel = old.ctrSel ∧ new.tagLen = old.tagLen ∧
      new.ovr = old.ovr ∧ new.wign = old.wign ∧ new.doneIe = old.doneIe ∧ new.errIe = old.errIe ∧
      new.iv = old.iv ∧ new.din = old.din) ∧
    ((i = .derive ∨ i = .chrst ∨ ∃ n, i = .macfCmac n) ∨
      new.k1 = old.k1 ∧ new.k2 = old.k2 ∧ new.skv = old.skv) ∧
    ((i = .chrst ∨ ∃ n, i = .encCfb n ∨ i = .decCfb n ∨ i = .encOfb n ∨ i = .decOfb n ∨ i = .encCtr n ∨ i = .decCtr n) ∨
      new.ks = old.ks) ∧
    ((i = .chrst ∨ i = .ldivCbc ∨ i = .ldivCfb ∨ i = .ldivOfb ∨ i = .ldivCtr ∨
        ∃ n, i = .encCfb n ∨ i = .decCfb n ∨ i = .encOfb n ∨ i = .decOfb n ∨ i = .encCtr n ∨ i = .decCtr n) ∨
      new.kpos = old.kpos) ∧
    ((i = .derive ∨ i = .ldivCtr ∨ ∃ n, i = .encEcb n ∨ i = .decEcb n ∨ i = .encfEcb n ∨ i = .decfEcb n ∨ i = .encCtr n ∨
        i = .decCtr n) → new.chain = old.chain) ∧
    ((i = .derive ∨ i = .ldivCbc ∨ i = .ldivCfb ∨ i = .ldivOfb ∨ i = .ldivCtr ∨ ∃ n, i = .macuCmac n) →
      new.dout = old.dout) ∧
    ((i = .derive ∨ i.dataForm.isSome = true) → new.ivv = old.ivv) ∧
    ((i = .derive ∨ ∃ op m n, i.dataForm = some (op, m, n) ∧ m ≠ .cmac) → new.cmip = old.cmip) ∧
    ((i = .derive ∨ ∃ op m n, i.dataForm = some (op, m, n) ∧ bindsDir m = false) →
      new.dirv = old.dirv ∧ new.dir = old.dir) ∧
    (i = .derive → new.st = old.st ∧ new.bmv = old.bmv ∧ new.bmode = old.bmode)

/-- What a command leaves by R156, in the counters and in its channel. -/
def State.Frame (s : State) (i : Instr) (r : CmdResult) : Prop :=
  s.CounterFrame i (s.outcome r) ∧ s.cur.Frame i (s.outcome r).chan

/-! ### What the shared operations leave (R142, R143, R146, R153) -/

theorem State.counterFrame_unchanged (s : State) (i : Instr) (ch : Channel) :
    s.CounterFrame i { chan := ch, cnt := s.cnt, ctrv := s.ctrv } := ⟨fun _ _ => ⟨rfl, rfl⟩, .inr rfl, .inr rfl⟩

theorem getD_set_of_ne {α : Type} (l : List α) (j k : Nat) (a d : α) (h : k ≠ j) : (l.set j a).getD k d = l.getD k d := by
  rw [List.getD_eq_getElem?_getD, List.getElem?_set_ne h.symm, List.getD_eq_getElem?_getD]

/-- An error leaves all that R156 lists, whatever the command (R143). -/
theorem State.frame_error (s : State) (i : Instr) (r : CmdResult) (e : ErrCode) (h : r.result = .error e) : s.Frame i r := by
  unfold State.Frame State.outcome
  rw [h]
  exact ⟨s.counterFrame_unchanged i _, by simp [Channel.Frame]⟩

/-- A command that writes its channel alone leaves the counters. -/
theorem State.frame_writesChan (s : State) (i : Instr) (calls : List PrimCall) (ch : Channel) (h : s.cur.Frame i ch) :
    s.Frame i (s.writesChan calls ch) := ⟨s.counterFrame_unchanged i ch, h⟩

/-- A final block leaves what its binding leaves, or is an error (R193, R203). -/
theorem State.frame_finishUnpad (s : State) (i : Instr) (calls : List PrimCall) (base : Channel) (m : Mode) (x : Block)
    (h : ∀ v n, s.cur.Frame i ((base.writeOut s.params.bs v n).commit m .decrypt)) :
    s.Frame i (s.finishUnpad calls base m x) := by
  unfold State.finishUnpad
  split
  · exact s.frame_error i _ .invalidPadding rfl
  · exact s.frame_writesChan i calls _ (h _ _)

/-- CTR leaves CHAIN and every counter but the selected one (R231). -/
theorem State.frame_streamCtr (s : State) (i : Instr) (d : Dir) (len : Nat) (hi : i = .encCtr len ∨ i = .decCtr len) :
    s.Frame i (s.streamSeg .ctr d len s.cur) := by
  have hchain : (streamBytes s.params s.cur.keySlot .ctr d (s.streamStart s.cur) (s.cur.segment len)).chain = s.cur.chain :=
    streamBytes_ctr_chain ..
  refine ⟨⟨fun k hk => ⟨getD_set_of_ne _ _ _ _ _ hk, rfl⟩, .inl (.inr (hi.imp (⟨len, ·⟩) (⟨len, ·⟩))), .inr rfl⟩, ?_⟩
  rcases hi with rfl | rfl <;>
    simp [Channel.Frame, State.outcome, State.streamSeg, State.writesCounter, Instr.dataForm, streamMode, bindsDir, hchain]

/-- LDIV.CTR leaves every counter but the selected one (R184). -/
theorem State.frame_loadCounter (s : State) : s.Frame .ldivCtr (s.loadCounter s.cur) :=
  ⟨⟨fun _ hk => ⟨getD_set_of_ne _ _ _ _ _ hk, getD_set_of_ne _ _ _ _ _ hk⟩, .inl (.inl rfl), .inl rfl⟩,
    by simp [Channel.Frame, State.outcome, State.loadCounter, Channel.newStream, Instr.dataForm]⟩

/-- Every command leaves what R156 says it does not write. -/
theorem exec_frame (i : Instr) (s : State) :
    ∃ effect, exec i s = .next (s.runCommand i effect) ∧ s.Frame i (effect s.cur) := by
  cases i <;> refine ⟨_, rfl, ?_⟩
  case ldivCtr => exact s.frame_loadCounter
  case encCtr len => exact s.frame_streamCtr _ .encrypt len (.inl rfl)
  case decCtr len => exact s.frame_streamCtr _ .decrypt len (.inr rfl)
  case derive =>
    dsimp only
    split
    · exact s.frame_writesChan _ _ _ (by simp [Channel.Frame, Channel.deriveSubkeys])
    · exact s.frame_error _ _ .invalidKey rfl
  case decfEcb | decfCbc =>
    exact s.frame_finishUnpad _ _ _ _ _ fun v n => by simp [Channel.Frame, Instr.dataForm, bindsDir]
  case macfCmac len =>
    obtain ⟨k1, k2, skv, hkey⟩ := s.cur.withSubkeys_eq s.params
    rw [hkey]
    exact s.frame_writesChan _ _ _ (by simp [Channel.Frame, Instr.dataForm, bindsDir])
  case ldivCbc | ldivCfb | ldivOfb =>
    exact s.frame_writesChan _ _ _ (by simp [Channel.Frame, Instr.dataForm, Channel.loadChain, Channel.newStream])
  case chrst => exact s.frame_writesChan _ _ _ (by simp [Channel.Frame, Instr.dataForm, Channel.clear])
  case encCfb | decCfb | encOfb | decOfb =>
    exact s.frame_writesChan _ _ _ (by simp [Channel.Frame, Instr.dataForm, streamMode, bindsDir])
  all_goals exact s.frame_writesChan _ _ _ (by simp [Channel.Frame, Instr.dataForm, bindsDir])

/-! ### The rest of the block (R156, R275) -/

/-- A bank reads the same in two states that have the same channel there, busy in both or in neither (R85). -/
theorem State.readWindow_bank (s t : State) (c r : Nat) (hr : r < 0x80) (hp : t.params = s.params) (hc : t.chan c = s.chan c)
    (hb : t.busy c = s.busy c) : t.readWindow (0x100 + 0x80 * c + r) = s.readWindow (0x100 + 0x80 * c + r) := by
  by_cases hlt : c < s.params.nch
  · rw [t.readWindow_chan c r (hp ▸ hlt) hr, s.readWindow_chan c r hlt hr]
    unfold State.readChan
    rw [hc, hb]
  · have habsent : regAt s.params (0x100 + 0x80 * c + r) = .reserved := regAt_absent _ _ (by omega)
    rw [State.readWindow, State.readWindow, hp, habsent]; rfl

/-- A channel that is not PCH is not busy (R34). -/
theorem State.busy_of_ne_pch (s : State) (c : Nat) (h : c ≠ s.pch) : s.busy c = false := by
  simp [State.busy, h.symm]

/-- Settles O34: a completion reaches the executing channel, the counters and GBUSY alone, and of those the command leaves what
R156's table leaves it. -/
theorem commandFrame : Obligations.CommandFrame := by
  intro i s t hlt he
  obtain ⟨effect, hexec, heffect⟩ := exec_frame i s
  obtain ⟨r, hr, hframe⟩ : ∃ r, s.runCommand i effect = s.complete r ∧ s.Frame i r := by
    rcases s.runCommand_cases i effect with ⟨e, hrun⟩ | ⟨-, hrun⟩
    · exact ⟨raiseErr [] e, hrun, s.frame_error i _ e rfl⟩
    · exact ⟨_, hrun, heffect⟩
  obtain rfl := Host.Outcome.next.inj (he.symm.trans (hexec.trans (congrArg _ hr)))
  obtain ⟨⟨hcounters, hcnt, hctrv⟩, hchan⟩ := hframe
  refine ⟨by simp, fun c hc => s.chan_complete_ne r c hc, fun c k hc hk => ?_, hcounters, hcnt, hctrv, ?_⟩
  · exact s.readWindow_bank _ c k hk rfl (s.chan_complete_ne r c hc)
      (((s.complete r).busy_of_ne_pch c hc).trans (s.busy_of_ne_pch c hc).symm)
  · rw [s.cur_complete r hlt]; exact hchan

end Sys2Proof.Machine

/-! PROOFS. Channel set-up (R180 to R185): the four LDIV forms and CHRST. -/

namespace Sys2Proof.Machine

/-- A command whose one effect is to write its channel as `load` says ends in that channel, with no primitive call (R141, R142). -/
theorem State.runPlain_writesChan (s : State) (load : Channel → Channel) (h : s.fatal = false) :
    s.runPlain (fun ch => s.writesChan [] (load ch)) = s.ended [] (load s.cur) := by
  rw [s.runPlain_ok _ h, s.complete_writesChan]

/-- Normal completion of a counter load: the new stream with IVV = 0, and the selected counter and its CTRV bit (R180). -/
theorem State.complete_loadCounter (s : State) (ch : Channel) :
    s.complete (s.loadCounter ch) =
      { s.ended [] { ch.newStream .ctr with ivv := false } with
        cnt := s.cnt.set ch.ctrSel.toNat ch.iv, ctrv := s.ctrv.set ch.ctrSel.toNat true } := rfl

theorem getD_set_same {α : Type} (l : List α) (j : Nat) (a d : α) (h : j < l.length) : (l.set j a).getD j d = a := by
  rw [List.getD_eq_getElem _ _ (by simpa using h), List.getElem_set_self]

/-- Settles O38: the completed load sets the selected entries of the counter file, and its frame keeps every other one. -/
theorem ldivCtrLoadsTheSelectedCounter : Obligations.LdivCtrLoadsTheSelectedCounter := by
  intro s hfatal hcnt hctrv
  have hexec : exec .ldivCtr s = .next (s.complete (s.loadCounter s.cur)) := congrArg _ (s.runPlain_ok _ hfatal)
  obtain ⟨⟨hothers, -, -⟩, -⟩ := s.frame_loadCounter
  refine ⟨_, hexec, ?_, getD_set_same _ _ _ _ hcnt, getD_set_same _ _ _ _ hctrv, hothers⟩
  rw [s.complete_loadCounter]; rfl

/-- Settles O37: the three forms are one load of CHAIN, for three modes. -/
theorem ldivLoadsTheChain : Obligations.LdivLoadsTheChain := by
  intro s hfatal loaded
  have hload (m : Mode) : s.runPlain (fun ch => s.writesChan [] (ch.loadChain m)) = loaded m :=
    s.runPlain_writesChan _ hfatal
  exact ⟨congrArg _ (hload .cbc), congrArg _ (hload .cfb), congrArg _ (hload .ofb)⟩

/-- Settles O39: without FATAL the effect is the cleared channel, written alone. -/
theorem chrstClearsTheContext : Obligations.ChrstClearsTheContext :=
  fun s hfatal => congrArg _ (s.runPlain_writesChan (·.clear s.params.bs) hfatal)

end Sys2Proof.Machine

/-! PROOFS. Running a prepared segment: what `State.prepare` leaves, and a run of one command (R118, R140). -/

namespace Sys2Proof.Machine

section
variable (s : State) (c : Nat) (seg : Block) (i : Instr)

@[simp] theorem State.prepare_pch : (s.prepare c seg i).pch = c := rfl

@[simp] theorem State.length_chans_prepare : (s.prepare c seg i).chans.length = s.chans.length := List.length_set

/-- The prepared channel has the segment in DIN, and its flags are those of acceptance (R140). -/
theorem State.cur_prepare (h : c < s.chans.length) :
    (s.prepare c seg i).cur =
      { s.chan c with
        din := seg ++ zeros (s.params.bs - seg.length), done := false, err := false, errCode := none } :=
  s.chan_setChan_same c _ h

/-- Preparing a segment leaves all that the checks before the length check read (R144). -/
theorem State.prepare_admits (m : Mode) (d : Dir) (h : c < s.chans.length) (ha : State.Admits { s with pch := c } m d) :
    (s.prepare c seg i).Admits m d := by
  unfold State.Admits
  rw [s.cur_prepare c seg i h]
  exact ha

end

/-- One command on one segment: the state it ends in and the valid bytes of its DOUT (R48). -/
theorem State.runSegments_singleton (s t : State) (c : Nat) (mk : Nat → Instr) (seg : Block)
    (h : exec (mk seg.length) (s.prepare c seg (mk seg.length)) = .next t) :
    State.runSegments c mk s [seg] = some (t, [(t.chan c).output]) := by
  simp [State.runSegments, h]

end Sys2Proof.Machine

/-! PROOFS. The ECB commands (R190 to R194): one rule for each, and the round trip. -/

namespace Sys2Proof.Machine

/-! ### The padding of a prepared segment (R148) -/

/-- The pad ignores the bytes of DIN beyond the segment. -/
theorem pad_append (bs : Nat) (seg rest : Block) : pad bs (seg ++ rest) seg.length = pad bs seg seg.length := by
  rw [pad, pad, List.take_left, List.take_length]

theorem take_pad (bs : Nat) (seg : Block) : (pad bs seg seg.length).take seg.length = seg := by
  rw [pad, List.take_length, List.take_left]

/-! ### What an output write leaves (R146, R153) -/

/-- The output write of a whole block (R153). -/
theorem Channel.writeOut_block (ch : Channel) (bs : Nat) (r : Block) (h : r.length = bs) :
    ch.writeOut bs r bs = { ch with dout := r, outLen := bs } := by
  rw [Channel.writeOut, take_append_zeros r bs h]

/-- The output write of an unpadded block: the n bytes of the pad are zeros (R149, R153). -/
theorem Channel.writeOut_unpadded (ch : Channel) (bs n : Nat) (x : Block) (hx : x.length = bs) (hn : n ≤ bs) :
    ch.writeOut bs (x.take (bs - n) ++ zeros n) (bs - n) =
      { ch with dout := x.take (bs - n) ++ zeros n, outLen := bs - n } := by
  rw [Channel.writeOut, List.take_left' (List.length_take_of_le (by omega)), Nat.sub_sub_self hn]

/-- A final block with a well-formed pad completes with the unpadded value, and binds (R149, R193, R203). -/
theorem State.complete_finishUnpad_of_padIs (s : State) (calls : List PrimCall) (base : Channel) (m : Mode) (x : Block)
    (n : Nat) (hp : s.params.WF) (hx : x.length = s.params.bs) (hn : PadIs s.params.bs x n) :
    s.complete (s.finishUnpad calls base m x) =
      s.ended calls
        (Channel.commit
          { base with dout := x.take (s.params.bs - n) ++ zeros n, outLen := s.params.bs - n } m .decrypt) := by
  obtain ⟨hgood, -⟩ := unpad_spec s.params.bs hp.1 x hx
  rw [State.finishUnpad, hgood n hn, ← base.writeOut_unpadded _ n x hx hn.2.1]
  rfl

/-- A final block with a malformed pad is the error completion with InvalidPadding, its calls on record (R149, R193, R203). -/
theorem State.complete_finishUnpad_of_not_padIs (s : State) (calls : List PrimCall) (base : Channel) (m : Mode) (x : Block)
    (hp : s.params.WF) (hx : x.length = s.params.bs) (hn : ¬∃ n, PadIs s.params.bs x n) :
    s.complete (s.finishUnpad calls base m x) = s.failed calls .invalidPadding := by
  obtain ⟨-, hbad⟩ := unpad_spec s.params.bs hp.1 x hx
  rw [State.finishUnpad, hbad hn]
  rfl

/-- The executing channel of a completion is the written one, with DONE (R141). -/
theorem State.cur_ended (s : State) (ch : Channel) (calls : List PrimCall) (h : s.pch < s.chans.length) :
    (s.ended calls ch).cur = { ch with done := true } :=
  s.chan_ended_same ch calls h

/-! ### The four commands (R190 to R193) -/

/-- The channel that an ECB command with `n` valid bytes in `out` leaves: DOUT and OUT_LEN, and the channel bound to ECB and
STREAMING, without a direction (R146, R190). -/
def Channel.ecbOutput (ch : Channel) (out : Block) (n : Nat) : Channel :=
  { ch with dout := out, outLen := n, bmv := true, bmode := .ecb, st := true }

/-- ECB binds no direction, so a state that admits one admits both (R53, R144). -/
theorem State.admits_ecb_any (s : State) (d d' : Dir) (h : s.Admits .ecb d) : s.Admits .ecb d' := by
  obtain ⟨hfatal, hmode, hkey, -, hctr⟩ := h
  exact ⟨hfatal, hmode, hkey, nofun, hctr⟩

/-- An admitted ECB command of a legal length is its effect, completed (R144). -/
theorem State.runEcb_admitted (s : State) (op : DataOp) (d : Dir) (len : Nat) (body : Channel → CmdResult)
    (h : s.Admits .ecb d) (hl : lenOk s.params.bs s.cur.cmip op .ecb len = true) :
    s.runData op .ecb len body = s.complete (body s.cur) :=
  s.runData_admitted op .ecb len body h.1 (s.dataCheck_none op .ecb len (s.admits_ecb_any d op.dir h) hl)

/-- Completing with a whole output block in ECB (R190 to R192). -/
theorem State.complete_ecbBlock (s : State) (calls : List PrimCall) (ch : Channel) (r : Block) (d : Dir)
    (h : r.length = s.params.bs) :
    s.complete (s.writesChan calls ((ch.writeOut s.params.bs r s.params.bs).commit .ecb d)) =
      s.ended calls (ch.ecbOutput r s.params.bs) := by
  rw [s.complete_writesChan, ch.writeOut_block _ r h]
  rfl

section
variable (s : State) (d : Dir) (h : s.Admits .ecb d) (hdin : s.cur.din.length = s.params.bs)
include h hdin

/-- ENC.ECB (R190). -/
theorem exec_encEcb :
    exec (.encEcb s.params.bs) s =
      .next (s.ended [encCall s.cur.keySlot s.cur.din]
        (s.cur.ecbOutput (encBlock s.params s.cur.keySlot s.cur.din) s.params.bs)) :=
  congrArg _ ((s.runEcb_admitted .enc d _ _ h (by simp [lenOk])).trans
    (s.complete_ecbBlock _ _ _ _ (by simp [hdin])))

/-- DEC.ECB (R191). -/
theorem exec_decEcb :
    exec (.decEcb s.params.bs) s =
      .next (s.ended [decCall s.cur.keySlot s.cur.din]
        (s.cur.ecbOutput (decBlock s.params s.cur.keySlot s.cur.din) s.params.bs)) :=
  congrArg _ ((s.runEcb_admitted .dec d _ _ h (by simp [lenOk])).trans
    (s.complete_ecbBlock _ _ _ _ (by simp [hdin])))

/-- ENCF.ECB (R192). -/
theorem exec_encfEcb (len : Nat) (hlen : len < s.params.bs) :
    exec (.encfEcb len) s =
      .next (s.ended [encCall s.cur.keySlot (s.cur.padded s.params.bs len)]
        (s.cur.ecbOutput (encBlock s.params s.cur.keySlot (s.cur.padded s.params.bs len)) s.params.bs)) := by
  have hpad : (s.cur.padded s.params.bs len).length = s.params.bs := length_pad _ _ _ hlen.le (by omega)
  exact congrArg _ ((s.runEcb_admitted .encf d len _ h (by simpa [lenOk] using hlen)).trans
    (s.complete_ecbBlock _ _ _ _ (by simp [hpad])))

/-- DECF.ECB of a block with a well-formed pad (R193). -/
theorem exec_decfEcb_of_padIs (n : Nat) (hp : s.params.WF)
    (hn : PadIs s.params.bs (decBlock s.params s.cur.keySlot s.cur.din) n) :
    exec (.decfEcb s.params.bs) s =
      .next (s.ended [decCall s.cur.keySlot s.cur.din]
        (s.cur.ecbOutput ((decBlock s.params s.cur.keySlot s.cur.din).take (s.params.bs - n) ++ zeros n)
          (s.params.bs - n))) :=
  congrArg _ ((s.runEcb_admitted .decf d _ _ h (by simp [lenOk])).trans
    (s.complete_finishUnpad_of_padIs _ _ _ _ n hp (by simp [hdin]) hn))

/-- DECF.ECB of a block with a malformed pad (R193). -/
theorem exec_decfEcb_of_not_padIs (hp : s.params.WF)
    (hn : ¬∃ n, PadIs s.params.bs (decBlock s.params s.cur.keySlot s.cur.din) n) :
    exec (.decfEcb s.params.bs) s = .next (s.failed [decCall s.cur.keySlot s.cur.din] .invalidPadding) :=
  congrArg _ ((s.runEcb_admitted .decf d _ _ h (by simp [lenOk])).trans
    (s.complete_finishUnpad_of_not_padIs _ _ _ _ hp (by simp [hdin]) hn))

end

theorem State.length_din (s : State) (h : s.Inv) : s.cur.din.length = s.params.bs := by
  obtain ⟨⟨-, hdin, -⟩, -⟩ := s.cur_inv h
  exact hdin

/-- Settles O40: DIN is a block, so both commands pass their checks and write a block. -/
theorem ecbBlockCommands : Obligations.EcbBlockCommands := by
  intro s hinv hadm
  have hdin := s.length_din hinv
  exact ⟨exec_encEcb s _ hadm hdin, exec_decEcb s _ hadm hdin⟩

/-- Settles O41: the padded segment is a block. -/
theorem encfEcbPadsAndEncrypts : Obligations.EncfEcbPadsAndEncrypts := by
  intro s len hinv hadm hlen
  exact exec_encfEcb s _ hadm (s.length_din hinv) len hlen

/-- Settles O42, by the two cases of the unpadding. -/
theorem decfEcbUnpadsOrRefuses : Obligations.DecfEcbUnpadsOrRefuses := by
  intro s hinv hadm
  have hdin := s.length_din hinv
  exact ⟨fun n hn => exec_decfEcb_of_padIs s _ hadm hdin n hinv.1 hn,
    fun hn => exec_decfEcb_of_not_padIs s _ hadm hdin hinv.1 hn⟩

/-! ### The round trip (R194) -/

/-- The channel PCH admits ECB, under the parameters `p` and the key slot `slot` (R144). -/
def State.EcbReady (s : State) (p : Params) (slot : BitVec 8) : Prop :=
  s.pch < s.chans.length ∧ s.Admits .ecb .encrypt ∧ s.params = p ∧ s.cur.keySlot = slot

/-- Preparing a segment keeps the channel ready. -/
theorem State.prepare_ecbReady (s : State) (c : Nat) (seg : Block) (i : Instr) (p : Params) (slot : BitVec 8)
    (h : State.EcbReady { s with pch := c } p slot) : (s.prepare c seg i).EcbReady p slot := by
  obtain ⟨hc, hadm, hp, hslot⟩ := h
  refine ⟨by simpa using hc, s.prepare_admits c seg i _ _ hc hadm, hp, ?_⟩
  rw [s.cur_prepare c seg i hc]
  exact hslot

/-- An ECB command that succeeds keeps it ready: it leaves FATAL and KEY_SLOT, and binds ECB. -/
theorem State.ended_ecbReady (s : State) (calls : List PrimCall) (out : Block) (n : Nat) (p : Params) (slot : BitVec 8)
    (h : s.EcbReady p slot) : (s.ended calls (s.cur.ecbOutput out n)).EcbReady p slot := by
  obtain ⟨hc, ⟨hfatal, -, hkey, -⟩, hp, hslot⟩ := h
  refine ⟨by simpa using hc, ⟨hfatal, ?_, ?_, nofun, nofun⟩, hp, ?_⟩ <;> rw [s.cur_ended _ calls hc]
  · exact fun _ => rfl
  · exact hkey
  · exact hslot

section
variable {s : State} {c : Nat} {p : Params} {slot : BitVec 8} (h : State.EcbReady { s with pch := c } p slot) (seg : Block)
include h

/-- An ECB command that succeeds on a prepared segment outputs its valid bytes, and the channel stays ready. -/
theorem State.EcbReady.run (mk : Nat → Instr) (calls : List PrimCall) (out y : Block) (n : Nat) (hy : out.take n = y)
    (hexec : exec (mk seg.length) (s.prepare c seg (mk seg.length)) =
      .next ((s.prepare c seg (mk seg.length)).ended calls
        ((s.prepare c seg (mk seg.length)).cur.ecbOutput out n))) :
    ∃ t, State.runSegments c mk s [seg] = some (t, [y]) ∧ State.EcbReady { t with pch := c } p slot := by
  have hready := s.prepare_ecbReady c seg (mk seg.length) p slot h
  have hcur := State.cur_ended _ ((s.prepare c seg (mk seg.length)).cur.ecbOutput out n) calls hready.1
  refine ⟨(s.prepare c seg (mk seg.length)).ended calls _, ?_, State.ended_ecbReady _ calls out n p slot hready⟩
  rw [s.runSegments_singleton _ c mk seg hexec]
  exact congrArg (fun b => some (_, [b])) ((congrArg Channel.output hcur).trans hy)

/-- The segment as the command finds it in DIN, followed by zeros. -/
theorem State.EcbReady.din_prepare (i : Instr) : (s.prepare c seg i).cur.din = seg ++ zeros (p.bs - seg.length) := by
  obtain ⟨hc, -, rfl, -⟩ := h
  rw [s.cur_prepare c seg i hc]

theorem State.EcbReady.din_prepare_block (i : Instr) (hseg : seg.length = p.bs) : (s.prepare c seg i).cur.din = seg := by
  rw [h.din_prepare seg, hseg, Nat.sub_self]
  exact seg.append_nil

/-- ENC.ECB of a block outputs E of it (R190). -/
theorem State.EcbReady.run_encEcb (hseg : seg.length = p.bs) :
    ∃ t, State.runSegments c .encEcb s [seg] = some (t, [encBlock p slot seg]) ∧
      State.EcbReady { t with pch := c } p slot := by
  obtain ⟨-, hadm, hp, hslot⟩ := s.prepare_ecbReady c seg (.encEcb seg.length) p slot h
  have hdin := h.din_prepare_block seg (.encEcb seg.length) hseg
  have hexec := exec_encEcb _ _ hadm (by rw [hdin, hp, hseg])
  rw [hdin, hp, hslot, ← hseg] at hexec
  exact h.run seg .encEcb _ _ _ _ (List.take_of_length_le (by simp)) hexec

/-- DEC.ECB of a block outputs D of it (R191). -/
theorem State.EcbReady.run_decEcb (hseg : seg.length = p.bs) :
    ∃ t, State.runSegments c .decEcb s [seg] = some (t, [decBlock p slot seg]) ∧
      State.EcbReady { t with pch := c } p slot := by
  obtain ⟨-, hadm, hp, hslot⟩ := s.prepare_ecbReady c seg (.decEcb seg.length) p slot h
  have hdin := h.din_prepare_block seg (.decEcb seg.length) hseg
  have hexec := exec_decEcb _ _ hadm (by rw [hdin, hp, hseg])
  rw [hdin, hp, hslot, ← hseg] at hexec
  exact h.run seg .decEcb _ _ _ _ (List.take_of_length_le (by simp)) hexec

/-- ENCF.ECB of a segment shorter than a block outputs E of the padded segment (R192). -/
theorem State.EcbReady.run_encfEcb (hseg : seg.length < p.bs) :
    ∃ t, State.runSegments c .encfEcb s [seg] = some (t, [encBlock p slot (pad p.bs seg seg.length)]) ∧
      State.EcbReady { t with pch := c } p slot := by
  obtain ⟨-, hadm, hp, hslot⟩ := s.prepare_ecbReady c seg (.encfEcb seg.length) p slot h
  have hdin := h.din_prepare seg (.encfEcb seg.length)
  have hexec := exec_encfEcb _ _ hadm (by rw [hdin, hp]; simp [hseg.le]) seg.length (by rwa [hp])
  rw [Channel.padded, hdin, hp, hslot, pad_append] at hexec
  have hpad := length_pad p.bs seg seg.length hseg.le le_rfl
  exact h.run seg .encfEcb _ _ _ _ (List.take_of_length_le (by simp [hpad])) hexec

/-- DECF.ECB of a block that decrypts to a well-formed pad outputs what stands before the pad (R193). -/
theorem State.EcbReady.run_decfEcb (hwf : p.WF) (n : Nat) (hseg : seg.length = p.bs)
    (hn : PadIs p.bs (decBlock p slot seg) n) :
    ∃ t, State.runSegments c .decfEcb s [seg] = some (t, [(decBlock p slot seg).take (p.bs - n)]) ∧
      State.EcbReady { t with pch := c } p slot := by
  obtain ⟨-, hadm, hp, hslot⟩ := s.prepare_ecbReady c seg (.decfEcb seg.length) p slot h
  have hdin := h.din_prepare_block seg (.decfEcb seg.length) hseg
  have hexec := exec_decfEcb_of_padIs _ _ hadm (by rw [hdin, hp, hseg]) n (by rwa [hp]) (by rwa [hdin, hp, hslot])
  rw [hdin, hp, hslot, ← hseg] at hexec
  rw [← hseg]
  exact h.run seg .decfEcb _ _ _ _ (List.take_left' (List.length_take_of_le (by simp))) hexec

end

/-- Settles O43: D undoes E on a full block, and on the padded final segment, whose pad is well-formed. -/
theorem ecbRoundTrip : Obligations.EcbRoundTrip := by
  intro s c seg hinv hc hadm
  have hready : State.EcbReady { s with pch := c } s.params (s.chan c).keySlot := ⟨s.length_chans hinv ▸ hc, hadm, rfl, rfl⟩
  refine ⟨fun hseg => ?_, fun hseg => ?_⟩
  · obtain ⟨t, hrun, hready'⟩ := hready.run_encEcb seg hseg
    obtain ⟨u, hrun', -⟩ := hready'.run_decEcb _ ((length_encBlock ..).trans hseg)
    rw [decBlock_encBlock] at hrun'
    exact ⟨t, _, u, hrun, hrun'⟩
  · have hpad := length_pad s.params.bs seg seg.length hseg.le le_rfl
    have hpadIs := padIs_pad s.params.bs seg seg.length hseg le_rfl
    obtain ⟨t, hrun, hready'⟩ := hready.run_encfEcb seg hseg
    obtain ⟨u, hrun', -⟩ := hready'.run_decfEcb _ hinv.1 _ ((length_encBlock ..).trans hpad) (by rwa [decBlock_encBlock])
    rw [decBlock_encBlock, Nat.sub_sub_self hseg.le, take_pad] at hrun'
    exact ⟨t, _, u, hrun, hrun'⟩

end Sys2Proof.Machine

/-! PROOFS. The CBC commands (R200 to R204): one rule for each, the round trip, and the reach of a change. -/

namespace Sys2Proof.Machine

/-! ### One block in the chain (R200, R151) -/

/-- The ciphertext of a block `x` after the chaining value `v`: `E(v xor x)` (R200). -/
def cbcStep (p : Params) (slot : BitVec 8) (v x : Block) : Block := encBlock p slot (xorBlock v x)

theorem xorBlock_comm (a b : Block) : xorBlock a b = xorBlock b a := List.zipWith_comm_of_comm BitVec.xor_comm

section
variable (p : Params) (slot : BitVec 8) {v v' x x' : Block}

theorem length_cbcStep (hv : v.length = p.bs) (hx : x.length = p.bs) : (cbcStep p slot v x).length = p.bs := by
  simp [cbcStep, hv, hx]

/-- D and the chaining value give the block back (R201, R204). -/
theorem xorBlock_decBlock_cbcStep (hv : v.length = p.bs) (hx : x.length = p.bs) :
    xorBlock (decBlock p slot (cbcStep p slot v x)) v = x := by
  rw [cbcStep, decBlock_encBlock, xorBlock_comm v x, xorBlock_cancel x v (by omega)]

theorem cbcStep_ne_of_block_ne (hv : v.length = p.bs) (hx : x.length = p.bs) (hx' : x'.length = p.bs) (h : x ≠ x') :
    cbcStep p slot v x ≠ cbcStep p slot v x' := fun heq =>
  h (by rw [← xorBlock_decBlock_cbcStep p slot hv hx, heq, xorBlock_decBlock_cbcStep p slot hv hx'])

/-- The chaining value enters as the block does, so a change of it alone changes the ciphertext. -/
theorem cbcStep_ne_of_chain_ne (hv : v.length = p.bs) (hv' : v'.length = p.bs) (hx : x.length = p.bs) (h : v ≠ v') :
    cbcStep p slot v x ≠ cbcStep p slot v' x := by
  have hcomm (w : Block) : cbcStep p slot w x = cbcStep p slot x w := congrArg _ (xorBlock_comm w x)
  rw [hcomm v, hcomm v']
  exact cbcStep_ne_of_block_ne p slot hx hv hv' h

end

/-! ### The four commands (R200 to R203) -/

/-- The channel that a CBC command with `n` valid bytes in `out` leaves: CHAIN, DOUT and OUT_LEN, and the channel bound to CBC
and the direction, and STREAMING (R146, R200). -/
def Channel.cbcOutput (ch : Channel) (d : Dir) (chain out : Block) (n : Nat) : Channel :=
  { ch with
    chain := chain, dout := out, outLen := n, bmv := true, bmode := .cbc, st := true, dirv := true, dir := d }

/-- An admitted CBC command of a legal length is its effect, completed (R144). -/
theorem State.runCbc_admitted (s : State) (op : DataOp) (len : Nat) (body : Channel → CmdResult)
    (h : s.Admits .cbc op.dir) (hl : lenOk s.params.bs s.cur.cmip op .cbc len = true) :
    s.runData op .cbc len body = s.complete (body s.cur) :=
  s.runData_admitted op .cbc len body h.1 (s.dataCheck_none op .cbc len h hl)

/-- Encrypting one block in the chain, completed (R200, R202). -/
theorem State.complete_chainEncrypt (s : State) (x : Block) (hchain : s.cur.chain.length = s.params.bs)
    (hx : x.length = s.params.bs) :
    s.complete (s.chainEncrypt s.cur x) =
      s.ended [encCall s.cur.keySlot (xorBlock s.cur.chain x)]
        (s.cur.cbcOutput .encrypt (cbcStep s.params s.cur.keySlot s.cur.chain x)
          (cbcStep s.params s.cur.keySlot s.cur.chain x) s.params.bs) := by
  have hc := length_cbcStep s.params s.cur.keySlot hchain hx
  rw [cbcStep] at hc ⊢
  rw [State.chainEncrypt, s.complete_writesChan, Channel.writeOut_block _ _ _ hc]
  rfl

section
variable (s : State) (hdin : s.cur.din.length = s.params.bs) (hchain : s.cur.chain.length = s.params.bs)
include hdin hchain

/-- ENC.CBC (R200). -/
theorem exec_encCbc (h : s.Admits .cbc .encrypt) :
    exec (.encCbc s.params.bs) s =
      .next (s.ended [encCall s.cur.keySlot (xorBlock s.cur.chain s.cur.din)]
        (s.cur.cbcOutput .encrypt (cbcStep s.params s.cur.keySlot s.cur.chain s.cur.din)
          (cbcStep s.params s.cur.keySlot s.cur.chain s.cur.din) s.params.bs)) :=
  congrArg _ ((s.runCbc_admitted .enc _ _ h (by simp [lenOk])).trans (s.complete_chainEncrypt _ hchain hdin))

/-- ENCF.CBC (R202). -/
theorem exec_encfCbc (h : s.Admits .cbc .encrypt) (len : Nat) (hlen : len < s.params.bs) :
    exec (.encfCbc len) s =
      .next (s.ended [encCall s.cur.keySlot (xorBlock s.cur.chain (s.cur.padded s.params.bs len))]
        (s.cur.cbcOutput .encrypt (cbcStep s.params s.cur.keySlot s.cur.chain (s.cur.padded s.params.bs len))
          (cbcStep s.params s.cur.keySlot s.cur.chain (s.cur.padded s.params.bs len)) s.params.bs)) :=
  congrArg _ ((s.runCbc_admitted .encf len _ h (by simpa [lenOk] using hlen)).trans
    (s.complete_chainEncrypt _ hchain (length_pad _ _ _ hlen.le (by omega))))

/-- DEC.CBC (R201). -/
theorem exec_decCbc (h : s.Admits .cbc .decrypt) :
    exec (.decCbc s.params.bs) s =
      .next (s.ended [decCall s.cur.keySlot s.cur.din]
        (s.cur.cbcOutput .decrypt s.cur.din (xorBlock (decBlock s.params s.cur.keySlot s.cur.din) s.cur.chain)
          s.params.bs)) := by
  refine congrArg _ ((s.runCbc_admitted .dec _ _ h (by simp [lenOk])).trans ?_)
  rw [s.complete_writesChan, Channel.writeOut_block _ _ _ (by simp [hdin, hchain])]
  rfl

/-- DECF.CBC of a block with a well-formed pad after the XOR with CHAIN (R203). -/
theorem exec_decfCbc_of_padIs (h : s.Admits .cbc .decrypt) (n : Nat) (hp : s.params.WF)
    (hn : PadIs s.params.bs (xorBlock (decBlock s.params s.cur.keySlot s.cur.din) s.cur.chain) n) :
    exec (.decfCbc s.params.bs) s =
      .next (s.ended [decCall s.cur.keySlot s.cur.din]
        (s.cur.cbcOutput .decrypt s.cur.din
          ((xorBlock (decBlock s.params s.cur.keySlot s.cur.din) s.cur.chain).take (s.params.bs - n) ++ zeros n)
          (s.params.bs - n))) :=
  congrArg _ ((s.runCbc_admitted .decf _ _ h (by simp [lenOk])).trans
    (s.complete_finishUnpad_of_padIs _ _ _ _ n hp (by simp [hdin, hchain]) hn))

/-- DECF.CBC of a block with a malformed pad after the XOR with CHAIN (R203). -/
theorem exec_decfCbc_of_not_padIs (h : s.Admits .cbc .decrypt) (hp : s.params.WF)
    (hn : ¬∃ n, PadIs s.params.bs (xorBlock (decBlock s.params s.cur.keySlot s.cur.din) s.cur.chain) n) :
    exec (.decfCbc s.params.bs) s = .next (s.failed [decCall s.cur.keySlot s.cur.din] .invalidPadding) :=
  congrArg _ ((s.runCbc_admitted .decf _ _ h (by simp [lenOk])).trans
    (s.complete_finishUnpad_of_not_padIs _ _ _ _ hp (by simp [hdin, hchain]) hn))

end

/-- The CHAIN of a channel the instance has is a block (R49). -/
theorem State.length_chain (s : State) (c : Nat) (h : s.Inv) (hc : c < s.chans.length) :
    (s.chan c).chain.length = s.params.bs := by
  obtain ⟨⟨-, -, -, hchain, -⟩, -⟩ := s.chan_inv c h (s.length_chans h ▸ hc)
  exact hchain

/-- Settles O44: DIN and the padded segment are blocks, and both commands encrypt one block in the chain. -/
theorem cbcEncryptCommands : Obligations.CbcEncryptCommands := by
  intro s hinv hadm
  have hdin := s.length_din hinv
  have hchain := s.length_chain _ hinv (s.pch_lt hinv)
  exact ⟨exec_encCbc s hdin hchain hadm, fun len hlen => exec_encfCbc s hdin hchain hadm len hlen⟩

/-- Settles O45: at LEN = BS every check is passed, and the result is a block. -/
theorem decCbcDecryptsInTheChain : Obligations.DecCbcDecryptsInTheChain :=
  fun s hinv hadm => exec_decCbc s (s.length_din hinv) (s.length_chain _ hinv (s.pch_lt hinv)) hadm

/-- Settles O46, by the two cases of the unpadding. -/
theorem decfCbcUnpadsOrRefuses : Obligations.DecfCbcUnpadsOrRefuses := by
  intro s hinv hadm
  have hdin := s.length_din hinv
  have hchain := s.length_chain _ hinv (s.pch_lt hinv)
  exact ⟨fun n hn => exec_decfCbc_of_padIs s hdin hchain hadm n hinv.1 hn,
    fun hn => exec_decfCbc_of_not_padIs s hdin hchain hadm hinv.1 hn⟩

/-! ### A chain of blocks (R200, R202) -/

/-- The ciphertext blocks of a list of blocks, chained from `v` (R200). -/
def cbcBlocks (p : Params) (slot : BitVec 8) : Block → List Block → List Block
  | _, [] => []
  | v, x :: rest => cbcStep p slot v x :: cbcBlocks p slot (cbcStep p slot v x) rest

/-- CHAIN after a list of blocks, from `v` (R200). -/
def cbcChain (p : Params) (slot : BitVec 8) (v : Block) (segs : List Block) : Block := segs.foldl (cbcStep p slot) v

/-- The final ciphertext block: the padded final segment, chained after the blocks (R202). -/
def cbcFinal (p : Params) (slot : BitVec 8) (v : Block) (segs : List Block) (fin : Block) : Block :=
  cbcStep p slot (cbcChain p slot v segs) (pad p.bs fin fin.length)

section
variable (p : Params) (slot : BitVec 8)

@[simp] theorem length_cbcBlocks (v : Block) (segs : List Block) : (cbcBlocks p slot v segs).length = segs.length := by
  induction segs generalizing v with
  | nil => rfl
  | cons x rest ih => simp [cbcBlocks, ih]

theorem cbcBlocks_append (v : Block) (pre post : List Block) :
    cbcBlocks p slot v (pre ++ post) = cbcBlocks p slot v pre ++ cbcBlocks p slot (cbcChain p slot v pre) post := by
  induction pre generalizing v with
  | nil => rfl
  | cons x rest ih => exact congrArg (_ :: ·) (ih _)

theorem cbcChain_append (v : Block) (pre post : List Block) :
    cbcChain p slot v (pre ++ post) = cbcChain p slot (cbcChain p slot v pre) post := List.foldl_append

theorem length_cbcChain (v : Block) (segs : List Block) (hv : v.length = p.bs) (hsegs : ∀ seg ∈ segs, seg.length = p.bs) :
    (cbcChain p slot v segs).length = p.bs := by
  induction segs generalizing v with
  | nil => exact hv
  | cons x rest ih =>
    obtain ⟨hx, hxs⟩ := List.forall_mem_cons.1 hsegs
    exact ih _ (length_cbcStep p slot hv hx) hxs

theorem length_cbcFinal (v : Block) (segs : List Block) (fin : Block) (hv : v.length = p.bs)
    (hsegs : ∀ seg ∈ segs, seg.length = p.bs) (hfin : fin.length < p.bs) : (cbcFinal p slot v segs fin).length = p.bs :=
  length_cbcStep p slot (length_cbcChain p slot v segs hv hsegs) (length_pad _ _ _ hfin.le le_rfl)

end

/-! ### Running the commands on one channel (R118, R140) -/

/-- The channel PCH admits CBC in the direction `d`, under the parameters `p` and the key slot `slot`, with the block `v` in
CHAIN (R144, R49). -/
def State.CbcReady (s : State) (d : Dir) (p : Params) (slot : BitVec 8) (v : Block) : Prop :=
  s.pch < s.chans.length ∧ s.Admits .cbc d ∧ s.params = p ∧ s.cur.keySlot = slot ∧ s.cur.chain = v ∧ v.length = p.bs

theorem State.cbcReady_of_inv (s : State) (c : Nat) (d : Dir) (h : s.Inv) (hc : c < s.params.nch)
    (ha : State.Admits { s with pch := c } .cbc d) :
    State.CbcReady { s with pch := c } d s.params (s.chan c).keySlot (s.chan c).chain := by
  rw [← s.length_chans h] at hc
  exact ⟨hc, ha, rfl, rfl, rfl, s.length_chain c h hc⟩

/-- Preparing a segment keeps the channel ready. -/
theorem State.prepare_cbcReady (s : State) (c : Nat) (seg : Block) (i : Instr) (d : Dir) (p : Params) (slot : BitVec 8)
    (v : Block) (h : State.CbcReady { s with pch := c } d p slot v) : (s.prepare c seg i).CbcReady d p slot v := by
  obtain ⟨hc, hadm, hp, hslot, hchain, hv⟩ := h
  refine ⟨by simpa using hc, s.prepare_admits c seg i _ _ hc hadm, hp, ?_, ?_, hv⟩ <;> rw [s.cur_prepare c seg i hc]
  · exact hslot
  · exact hchain

/-- A CBC command that succeeds keeps it ready, with the command's block in CHAIN: it leaves FATAL, KEY_SLOT and IVV, and binds
CBC and the direction. -/
theorem State.ended_cbcReady (s : State) (calls : List PrimCall) (d : Dir) (v' out : Block) (n : Nat) (p : Params)
    (slot : BitVec 8) (v : Block) (h : s.CbcReady d p slot v) (hv' : v'.length = p.bs) :
    (s.ended calls (s.cur.cbcOutput d v' out n)).CbcReady d p slot v' := by
  obtain ⟨hc, ⟨hfatal, -, hkey, hiv, -⟩, hp, hslot, -, -⟩ := h
  obtain ⟨hivv, -⟩ := hiv rfl
  refine ⟨by simpa using hc, ⟨hfatal, ?_, ?_, ?_, nofun⟩, hp, ?_, ?_, hv'⟩ <;> rw [s.cur_ended _ calls hc]
  · exact fun _ => rfl
  · exact hkey
  · exact fun _ => ⟨hivv, fun _ => rfl⟩
  · exact hslot
  · rfl

/-- The first command of a run, and the run of the rest from the state it ends in. -/
theorem State.runSegments_cons (s t : State) (c : Nat) (mk : Nat → Instr) (seg : Block) (rest : List Block)
    (h : exec (mk seg.length) (s.prepare c seg (mk seg.length)) = .next t) :
    State.runSegments c mk s (seg :: rest) =
      (State.runSegments c mk t rest).map fun r => (r.1, (t.chan c).output :: r.2) := by
  simp [State.runSegments, h]

section
variable {s : State} {c : Nat} {d : Dir} {p : Params} {slot : BitVec 8} {v : Block}

theorem State.CbcReady.length_chain (h : s.CbcReady d p slot v) : v.length = p.bs := by
  obtain ⟨-, -, -, -, -, hv⟩ := h
  exact hv

/-- A CBC command that succeeds on a prepared segment outputs its valid bytes `y`, and the run goes on from a ready channel
with the command's block in CHAIN. -/
theorem State.CbcReady.run (h : State.CbcReady { s with pch := c } d p slot v) (seg : Block) (mk : Nat → Instr)
    (calls : List PrimCall) (v' out y : Block) (n : Nat) (hy : out.take n = y) (hv' : v'.length = p.bs)
    (hexec : exec (mk seg.length) (s.prepare c seg (mk seg.length)) =
      .next ((s.prepare c seg (mk seg.length)).ended calls
        ((s.prepare c seg (mk seg.length)).cur.cbcOutput d v' out n))) :
    ∃ t, State.CbcReady { t with pch := c } d p slot v' ∧
      ∀ rest, State.runSegments c mk s (seg :: rest) =
        (State.runSegments c mk t rest).map fun r => (r.1, y :: r.2) := by
  have hready := s.prepare_cbcReady c seg (mk seg.length) d p slot v h
  have hcur := State.cur_ended _ ((s.prepare c seg (mk seg.length)).cur.cbcOutput d v' out n) calls hready.1
  obtain rfl := (congrArg Channel.output hcur).trans hy
  exact ⟨(s.prepare c seg (mk seg.length)).ended calls _, State.ended_cbcReady _ calls d v' out n p slot v hready hv',
    fun rest => s.runSegments_cons _ c mk seg rest hexec⟩

/-- The segment as the command finds it in DIN, followed by zeros. -/
theorem State.CbcReady.din_prepare (h : State.CbcReady { s with pch := c } d p slot v) (seg : Block) (i : Instr) :
    (s.prepare c seg i).cur.din = seg ++ zeros (p.bs - seg.length) := by
  obtain ⟨hc, -, rfl, -⟩ := h
  rw [s.cur_prepare c seg i hc]

theorem State.CbcReady.din_prepare_block (h : State.CbcReady { s with pch := c } d p slot v) (seg : Block) (i : Instr)
    (hseg : seg.length = p.bs) : (s.prepare c seg i).cur.din = seg := by
  rw [h.din_prepare seg, hseg, Nat.sub_self]
  exact seg.append_nil

/-- ENC.CBC of a block in a run (R200). -/
theorem State.CbcReady.run_encCbc (h : State.CbcReady { s with pch := c } .encrypt p slot v) (seg : Block)
    (hseg : seg.length = p.bs) :
    ∃ t, State.CbcReady { t with pch := c } .encrypt p slot (cbcStep p slot v seg) ∧
      ∀ rest, State.runSegments c .encCbc s (seg :: rest) =
        (State.runSegments c .encCbc t rest).map fun r => (r.1, cbcStep p slot v seg :: r.2) := by
  obtain ⟨-, hadm, hp, hslot, hchain, hv⟩ := s.prepare_cbcReady c seg (.encCbc seg.length) _ p slot v h
  have hdin := h.din_prepare_block seg (.encCbc seg.length) hseg
  have hexec := exec_encCbc _ (by rw [hdin, hp, hseg]) (by rw [hchain, hp, hv]) hadm
  have hlen := length_cbcStep p slot hv hseg
  rw [hdin, hp, hslot, hchain, ← hseg] at hexec
  exact h.run seg .encCbc _ _ _ _ _ (List.take_of_length_le (by rw [hlen, hseg])) hlen hexec

/-- ENCF.CBC of a segment shorter than a block (R202). -/
theorem State.CbcReady.run_encfCbc (h : State.CbcReady { s with pch := c } .encrypt p slot v) (seg : Block)
    (hseg : seg.length < p.bs) :
    ∃ t, State.runSegments c .encfCbc s [seg] = some (t, [cbcStep p slot v (pad p.bs seg seg.length)]) := by
  obtain ⟨-, hadm, hp, hslot, hchain, hv⟩ := s.prepare_cbcReady c seg (.encfCbc seg.length) _ p slot v h
  have hdin := h.din_prepare seg (.encfCbc seg.length)
  have hexec := exec_encfCbc _ (by rw [hdin, hp]; simp [hseg.le]) (by rw [hchain, hp, hv]) hadm seg.length (by rwa [hp])
  have hlen := length_cbcStep p slot hv (length_pad p.bs seg seg.length hseg.le le_rfl)
  rw [Channel.padded, hdin, hp, hslot, hchain, pad_append] at hexec
  obtain ⟨t, -, hrun⟩ := h.run seg .encfCbc _ _ _ _ _ (List.take_of_length_le hlen.le) hlen hexec
  exact ⟨t, hrun []⟩

/-- DEC.CBC of a block in a run (R201). -/
theorem State.CbcReady.run_decCbc (h : State.CbcReady { s with pch := c } .decrypt p slot v) (seg : Block)
    (hseg : seg.length = p.bs) :
    ∃ t, State.CbcReady { t with pch := c } .decrypt p slot seg ∧
      ∀ rest, State.runSegments c .decCbc s (seg :: rest) =
        (State.runSegments c .decCbc t rest).map fun r => (r.1, xorBlock (decBlock p slot seg) v :: r.2) := by
  obtain ⟨-, hadm, hp, hslot, hchain, hv⟩ := s.prepare_cbcReady c seg (.decCbc seg.length) _ p slot v h
  have hdin := h.din_prepare_block seg (.decCbc seg.length) hseg
  have hexec := exec_decCbc _ (by rw [hdin, hp, hseg]) (by rw [hchain, hp, hv]) hadm
  rw [hdin, hp, hslot, hchain, ← hseg] at hexec
  exact h.run seg .decCbc _ _ _ _ _ (List.take_of_length_le (by simp)) hseg hexec

/-- DECF.CBC of a block that gives a well-formed pad outputs what stands before the pad (R203). -/
theorem State.CbcReady.run_decfCbc (h : State.CbcReady { s with pch := c } .decrypt p slot v) (seg : Block) (hwf : p.WF)
    (n : Nat) (hseg : seg.length = p.bs) (hn : PadIs p.bs (xorBlock (decBlock p slot seg) v) n) :
    ∃ t, State.runSegments c .decfCbc s [seg] = some (t, [(xorBlock (decBlock p slot seg) v).take (p.bs - n)]) := by
  obtain ⟨-, hadm, hp, hslot, hchain, hv⟩ := s.prepare_cbcReady c seg (.decfCbc seg.length) _ p slot v h
  have hdin := h.din_prepare_block seg (.decfCbc seg.length) hseg
  have hexec := exec_decfCbc_of_padIs _ (by rw [hdin, hp, hseg]) (by rw [hchain, hp, hv]) hadm n (by rwa [hp])
    (by rwa [hdin, hp, hslot, hchain])
  rw [hdin, hp, hslot, hchain, ← hseg] at hexec
  rw [← hseg]
  have htake := List.length_take_of_le (l := xorBlock (decBlock p slot seg) v) (i := seg.length - n) (by simp [hseg, hv])
  obtain ⟨t, -, hrun⟩ := h.run seg .decfCbc _ _ _ _ _ (List.take_left' htake) hseg hexec
  exact ⟨t, hrun []⟩

/-! ### Whole messages (R200 to R204) -/

/-- ENC.CBC of every block, by induction on the blocks. -/
theorem State.CbcReady.run_encCbc_blocks (segs : List Block) (h : State.CbcReady { s with pch := c } .encrypt p slot v)
    (hsegs : ∀ seg ∈ segs, seg.length = p.bs) :
    ∃ t, State.runSegments c .encCbc s segs = some (t, cbcBlocks p slot v segs) ∧
      State.CbcReady { t with pch := c } .encrypt p slot (cbcChain p slot v segs) := by
  induction segs generalizing s v with
  | nil => exact ⟨s, rfl, h⟩
  | cons x rest ih =>
    obtain ⟨hx, hxs⟩ := List.forall_mem_cons.1 hsegs
    obtain ⟨t, hready, hrun⟩ := h.run_encCbc x hx
    obtain ⟨u, hrest, hready'⟩ := ih hready hxs
    exact ⟨u, by rw [hrun, hrest]; rfl, hready'⟩

/-- DEC.CBC of every ciphertext block gives the blocks and leaves the same CHAIN, by induction on the blocks. -/
theorem State.CbcReady.run_decCbc_cbcBlocks (segs : List Block) (h : State.CbcReady { s with pch := c } .decrypt p slot v)
    (hsegs : ∀ seg ∈ segs, seg.length = p.bs) :
    ∃ t, State.runSegments c .decCbc s (cbcBlocks p slot v segs) = some (t, segs) ∧
      State.CbcReady { t with pch := c } .decrypt p slot (cbcChain p slot v segs) := by
  induction segs generalizing s v with
  | nil => exact ⟨s, rfl, h⟩
  | cons x rest ih =>
    obtain ⟨hx, hxs⟩ := List.forall_mem_cons.1 hsegs
    have hv := h.length_chain
    obtain ⟨t, hready, hrun⟩ := h.run_decCbc _ (length_cbcStep p slot hv hx)
    obtain ⟨u, hrest, hready'⟩ := ih hready hxs
    exact ⟨u, by rw [cbcBlocks, hrun, hrest, xorBlock_decBlock_cbcStep p slot hv hx]; rfl, hready'⟩

/-- Encrypting a message: the blocks with ENC.CBC, then the final segment with ENCF.CBC. -/
theorem State.CbcReady.encrypts (h : State.CbcReady { s with pch := c } .encrypt p slot v) (segs : List Block) (fin : Block)
    (hsegs : ∀ seg ∈ segs, seg.length = p.bs) (hfin : fin.length < p.bs) :
    ∃ t t', State.runSegments c .encCbc s segs = some (t, cbcBlocks p slot v segs) ∧
      State.runSegments c .encfCbc t [fin] = some (t', [cbcFinal p slot v segs fin]) := by
  obtain ⟨t, hrun, hready⟩ := h.run_encCbc_blocks segs hsegs
  obtain ⟨t', hrun'⟩ := hready.run_encfCbc fin hfin
  exact ⟨t, t', hrun, hrun'⟩

/-- Decrypting it: the ciphertext blocks with DEC.CBC, then the final block with DECF.CBC. -/
theorem State.CbcReady.decrypts (h : State.CbcReady { s with pch := c } .decrypt p slot v) (segs : List Block) (fin : Block)
    (hwf : p.WF) (hsegs : ∀ seg ∈ segs, seg.length = p.bs) (hfin : fin.length < p.bs) :
    ∃ t t', State.runSegments c .decCbc s (cbcBlocks p slot v segs) = some (t, segs) ∧
      State.runSegments c .decfCbc t [cbcFinal p slot v segs fin] = some (t', [fin]) := by
  have hv := h.length_chain
  obtain ⟨t, hrun, hready⟩ := h.run_decCbc_cbcBlocks segs hsegs
  have hpad := length_pad p.bs fin fin.length hfin.le le_rfl
  have hx : xorBlock (decBlock p slot (cbcFinal p slot v segs fin)) (cbcChain p slot v segs) = pad p.bs fin fin.length :=
    xorBlock_decBlock_cbcStep p slot (length_cbcChain p slot v segs hv hsegs) hpad
  obtain ⟨t', hrun'⟩ := hready.run_decfCbc _ hwf (p.bs - fin.length) (length_cbcFinal p slot v segs fin hv hsegs hfin)
    (hx ▸ padIs_pad p.bs fin fin.length hfin le_rfl)
  rw [hx, Nat.sub_sub_self hfin.le, take_pad] at hrun'
  exact ⟨t, t', hrun, hrun'⟩

end

/-- Settles O47: both channels start from the same CHAIN, and decrypting each block leaves the CHAIN that encrypting it left. -/
theorem cbcStreamRoundTrip : Obligations.CbcStreamRoundTrip := by
  intro s s' c c' segs fin hinv hinv' hp hc hc' hslot hchain hadm hadm' hsegs hfin
  obtain ⟨t, t', henc, hencf⟩ := (s.cbcReady_of_inv c _ hinv hc hadm).encrypts segs fin hsegs hfin
  have hready' : State.CbcReady { s' with pch := c' } .decrypt s.params (s.chan c).keySlot (s.chan c).chain := by
    rw [hp, hslot, hchain]
    exact s'.cbcReady_of_inv c' _ hinv' hc' hadm'
  obtain ⟨u, u', hdec, hdecf⟩ := hready'.decrypts segs fin hinv.1 hsegs hfin
  exact ⟨t, _, t', _, u, u', henc, hencf, hdec, hdecf⟩

/-! ### How far a change reaches (R204) -/

section
variable (p : Params) (slot : BitVec 8)

section
variable (v v' : Block) (segs : List Block) (hv : v.length = p.bs) (hv' : v'.length = p.bs)
  (hsegs : ∀ seg ∈ segs, seg.length = p.bs) (h : v ≠ v')
include hv hv' hsegs h

/-- From two different chaining values every ciphertext block differs, by induction on the blocks. -/
theorem cbcBlocks_ne_of_chain_ne (j : Nat) (hj : j < segs.length) :
    (cbcBlocks p slot v segs).getD j [] ≠ (cbcBlocks p slot v' segs).getD j [] := by
  induction segs generalizing v v' j with
  | nil => exact absurd hj (Nat.not_lt_zero j)
  | cons x rest ih =>
    obtain ⟨hx, hxs⟩ := List.forall_mem_cons.1 hsegs
    have hstep := cbcStep_ne_of_chain_ne p slot hv hv' hx h
    cases j with
    | zero => exact hstep
    | succ j =>
      exact ih _ _ (length_cbcStep p slot hv hx) (length_cbcStep p slot hv' hx) hxs hstep j
        (Nat.lt_of_succ_lt_succ hj)

/-- So does the CHAIN they leave. -/
theorem cbcChain_ne_of_chain_ne : cbcChain p slot v segs ≠ cbcChain p slot v' segs := by
  induction segs generalizing v v' with
  | nil => exact h
  | cons x rest ih =>
    obtain ⟨hx, hxs⟩ := List.forall_mem_cons.1 hsegs
    exact ih _ _ (length_cbcStep p slot hv hx) (length_cbcStep p slot hv' hx) hxs
      (cbcStep_ne_of_chain_ne p slot hv hv' hx h)

end

section
variable (v x y : Block) (rest : List Block) (hv : v.length = p.bs) (hx : x.length = p.bs) (hy : y.length = p.bs)
  (hrest : ∀ seg ∈ rest, seg.length = p.bs) (h : x ≠ y)
include hv hx hy hrest h

/-- A changed first block changes every ciphertext block. -/
theorem cbcBlocks_cons_ne (j : Nat) (hj : j < rest.length + 1) :
    (cbcBlocks p slot v (x :: rest)).getD j [] ≠ (cbcBlocks p slot v (y :: rest)).getD j [] := by
  have hstep := cbcStep_ne_of_block_ne p slot hv hx hy h
  cases j with
  | zero => exact hstep
  | succ j =>
    exact cbcBlocks_ne_of_chain_ne p slot _ _ rest (length_cbcStep p slot hv hx) (length_cbcStep p slot hv hy) hrest hstep j
      (Nat.lt_of_succ_lt_succ hj)

/-- And the CHAIN they leave. -/
theorem cbcChain_cons_ne : cbcChain p slot v (x :: rest) ≠ cbcChain p slot v (y :: rest) :=
  cbcChain_ne_of_chain_ne p slot _ _ rest (length_cbcStep p slot hv hx) (length_cbcStep p slot hv hy) hrest
    (cbcStep_ne_of_block_ne p slot hv hx hy h)

end

/-- The ciphertext blocks before a place depend on the blocks before it alone. -/
theorem take_cbcBlocks_append (v : Block) (pre post : List Block) :
    (cbcBlocks p slot v (pre ++ post)).take pre.length = cbcBlocks p slot v pre := by
  rw [cbcBlocks_append, List.take_left' (length_cbcBlocks p slot v pre)]

/-- The ciphertext block at a place from `pre` on is one of the blocks after `pre`, chained from the CHAIN that `pre` leaves. -/
theorem getD_cbcBlocks_append (v : Block) (pre post : List Block) (j : Nat) (hj : pre.length ≤ j) :
    (cbcBlocks p slot v (pre ++ post)).getD j [] =
      (cbcBlocks p slot (cbcChain p slot v pre) post).getD (j - pre.length) [] := by
  rw [cbcBlocks_append, List.getD_append_right _ _ _ _ (by simpa using hj), length_cbcBlocks]

/-- Two segments of different bytes or lengths have different pads: unpadding tells them apart (R148, R149). -/
theorem pad_ne_of_ne (hwf : p.WF) (fin fin' : Block) (hfin : fin.length < p.bs) (hfin' : fin'.length < p.bs)
    (h : fin ≠ fin') : pad p.bs fin fin.length ≠ pad p.bs fin' fin'.length := by
  intro heq
  have hlen : fin.length = fin'.length := by
    obtain ⟨-, hunpad⟩ := unpadInvertsPad p.bs fin fin.length hwf.1 hfin le_rfl
    obtain ⟨-, hunpad'⟩ := unpadInvertsPad p.bs fin' fin'.length hwf.1 hfin' le_rfl
    rw [heq, hunpad'] at hunpad
    exact (congrArg Prod.snd (Option.some.inj hunpad)).symm
  exact h (by rw [← take_pad p.bs fin, heq, hlen, take_pad])

end

/-- Settles O48: a changed block changes CHAIN from there on, and a changed final segment changes its pad. -/
theorem cbcChangeReachesTheLaterBlocksOnly : Obligations.CbcChangeReachesTheLaterBlocksOnly := by
  intro s c hinv hc hadm message
  have hready := s.cbcReady_of_inv c _ hinv hc hadm
  have hv := hready.length_chain
  refine ⟨fun pre post x y fin hsegs hx hy hxy hfin => ?_, fun segs fin fin' hsegs hfin hfin' hne => ?_⟩
  · obtain ⟨hpre, hpost⟩ := List.forall_mem_append.1 hsegs
    have hblocks (z : Block) (hz : z.length = s.params.bs) : ∀ seg ∈ pre ++ z :: post, seg.length = s.params.bs :=
      List.forall_mem_append.2 ⟨hpre, List.forall_mem_cons.2 ⟨hz, hpost⟩⟩
    have hw := length_cbcChain s.params (s.chan c).keySlot _ pre hv hpre
    refine ⟨_, _, _, _, hready.encrypts _ fin (hblocks x hx) hfin, hready.encrypts _ fin (hblocks y hy) hfin,
      ?_, ?_, ?_, ?_⟩
    · simp
    · rw [take_cbcBlocks_append, take_cbcBlocks_append]
    · intro j hj hlt
      rw [length_cbcBlocks, List.length_append, List.length_cons] at hlt
      rw [getD_cbcBlocks_append _ _ _ _ _ j hj, getD_cbcBlocks_append _ _ _ _ _ j hj]
      exact cbcBlocks_cons_ne _ _ _ x y post hw hx hy hpost hxy _ (by omega)
    · refine cbcStep_ne_of_chain_ne _ _ (length_cbcChain _ _ _ _ hv (hblocks x hx))
        (length_cbcChain _ _ _ _ hv (hblocks y hy)) (length_pad _ _ _ hfin.le le_rfl) ?_
      rw [cbcChain_append, cbcChain_append]
      exact cbcChain_cons_ne _ _ _ x y post hw hx hy hpost hxy
  · refine ⟨_, _, _, hready.encrypts segs fin hsegs hfin, hready.encrypts segs fin' hsegs hfin', ?_⟩
    exact cbcStep_ne_of_block_ne _ _ (length_cbcChain _ _ _ segs hv hsegs) (length_pad _ _ _ hfin.le le_rfl)
      (length_pad _ _ _ hfin'.le le_rfl) (pad_ne_of_ne s.params hinv.1 fin fin' hfin hfin' hne)

end Sys2Proof.Machine

/-! PROOFS. The stream commands of CFB, OFB and CTR (R152): the loop from one segment to the next, one rule for the six commands,
the CFB segment (R211, R212), and a stream in any split (R213, R223, R235). -/

namespace Sys2Proof.Machine

/-! ### The loop from one segment to the next (R152) -/

/-- The registers the next segment starts from: KPOS, KS, CHAIN and the counter, with no output and no call yet. -/
def StreamRegs.restart (r : StreamRegs) : StreamRegs := { r with out := [], calls := [] }

/-- The blocks of the loop are blocks, and KPOS is a position in one (R50, I2 of R59). -/
structure StreamRegs.Sized (p : Params) (r : StreamRegs) : Prop where
  kpos : r.kpos < p.bs
  ks : r.ks.length = p.bs
  chain : r.chain.length = p.bs
  ctr : r.ctr.length = p.bs

section
variable (p : Params) (slot : BitVec 8) (m : StreamMode) (d : Dir)

/-- The output and the calls so far do not enter what a byte does. -/
theorem streamByte_restart (r : StreamRegs) (b : Byte) :
    (streamByte p slot m d r b).restart = (streamByte p slot m d r.restart b).restart ∧
      (streamByte p slot m d r b).out = r.out ++ (streamByte p slot m d r.restart b).out := by
  by_cases h : r.kpos = 0
  · cases m <;> simp [streamByte, refillIfEmpty, refill, useByte, StreamRegs.restart, h]
  · simp [streamByte, refillIfEmpty, useByte, StreamRegs.restart, h]

/-- A segment leaves the registers, and adds the output, that it would from no output and no calls. -/
theorem streamBytes_restart (r : StreamRegs) (seg : Block) :
    (streamBytes p slot m d r seg).restart = (streamBytes p slot m d r.restart seg).restart ∧
      (streamBytes p slot m d r seg).out = r.out ++ (streamBytes p slot m d r.restart seg).out := by
  induction seg generalizing r with
  | nil => exact ⟨rfl, (List.append_nil _).symm⟩
  | cons b rest ih =>
    obtain ⟨hregs, hout⟩ := streamByte_restart p slot m d r b
    obtain ⟨ihregs, ihout⟩ := ih (streamByte p slot m d r b)
    obtain ⟨ihregs', ihout'⟩ := ih (streamByte p slot m d r.restart b)
    rw [← hregs] at ihregs' ihout'
    refine ⟨ihregs.trans ihregs'.symm, ihout.trans ?_⟩
    rw [hout, List.append_assoc, ← ihout']
    rfl

theorem streamBytes_sized (r : StreamRegs) (seg : Block) (h : r.Sized p) : (streamBytes p slot m d r seg).Sized p := by
  obtain ⟨hkpos, hks, hchain, hctr, -⟩ := streamBytes_keeps p slot m d r seg h.kpos h.ks h.chain h.ctr
  exact ⟨hkpos ▸ Nat.mod_lt _ (Nat.zero_lt_of_lt h.kpos), hks, hchain, hctr⟩

theorem StreamRegs.Sized.restart {p : Params} {r : StreamRegs} (h : r.Sized p) : r.restart.Sized p :=
  ⟨h.kpos, h.ks, h.chain, h.ctr⟩

/-- Only CTR advances the counter (R156, R231). -/
theorem streamBytes_ctr_of_ne (hm : m ≠ .ctr) (r : StreamRegs) (seg : Block) :
    (streamBytes p slot m d r seg).ctr = r.ctr := by
  induction seg generalizing r with
  | nil => rfl
  | cons b rest ih =>
    refine (ih (streamByte p slot m d r b)).trans ?_
    cases m with
    | ctr => exact absurd rfl hm
    | cfb | ofb => by_cases h : r.kpos = 0 <;> simp [streamByte, useByte, refillIfEmpty, refill, h]

end

/-! ### The six commands (R211, R212, R221, R222, R232, R233) -/

/-- The OP of the stream command of a direction (R111). -/
def streamOp : Dir → DataOp
  | .encrypt => .enc
  | .decrypt => .dec

theorem dir_streamOp (d : Dir) : (streamOp d).dir = d := by cases d <;> rfl

/-- R145's row for the stream commands. -/
theorem lenOk_streamOp (bs len : Nat) (cmip : Bool) (m : StreamMode) (d : Dir) (h : len ≤ bs) :
    lenOk bs cmip (streamOp d) (streamMode m) len = true := by
  cases m <;> cases d <;> exact decide_eq_true h

theorem exec_streamInstr (m : StreamMode) (d : Dir) (len : Nat) (s : State) :
    exec (streamInstr m d len) s =
      .next (s.runData (streamOp d) (streamMode m) len (s.streamSeg m d len)) := by
  cases m <;> cases d <;> rfl

/-- An admitted stream command of 0 to BS bytes is its segment, completed (R144, R145). -/
theorem exec_streamInstr_admitted (m : StreamMode) (d : Dir) (len : Nat) (s : State) (h : s.Admits (streamMode m) d)
    (hlen : len ≤ s.params.bs) :
    exec (streamInstr m d len) s = .next (s.complete (s.streamSeg m d len s.cur)) := by
  have hadm : s.Admits (streamMode m) (streamOp d).dir := (dir_streamOp d).symm ▸ h
  rw [exec_streamInstr, s.runData_admitted _ _ _ _ h.1 (s.dataCheck_none _ _ _ hadm (lenOk_streamOp _ _ _ m d hlen))]

/-- The registers in which a segment of the executing channel ends. -/
def State.streamEnd (s : State) (m : StreamMode) (d : Dir) (len : Nat) : StreamRegs :=
  streamBytes s.params s.cur.keySlot m d (s.streamStart s.cur) (s.cur.segment len)

theorem set_getD_self {α : Type} (l : List α) (k : Nat) (a : α) : l.set k (l.getD k a) = l := by
  by_cases h : k < l.length
  · rw [List.getD_eq_getElem _ _ h, List.set_getElem_self]
  · exact List.set_eq_of_length_le (Nat.le_of_not_lt h)

/-- Normal completion of a stream segment, in one form for the three modes: CFB and OFB put the counter back as it was. -/
theorem State.complete_streamSeg (s : State) (m : StreamMode) (d : Dir) (len : Nat) :
    s.complete (s.streamSeg m d len s.cur) =
      { s.ended (s.streamEnd m d len).calls (s.cur.afterStream s.params.bs m d len (s.streamEnd m d len)) with
        cnt := s.cnt.set s.cur.ctrSel.toNat (s.streamEnd m d len).ctr } := by
  have hkept (hm : m ≠ .ctr) : s.cnt.set s.cur.ctrSel.toNat (s.streamEnd m d len).ctr = s.cnt :=
    (congrArg _ (streamBytes_ctr_of_ne _ _ m d hm _ _)).trans (set_getD_self ..)
  cases m with
  | ctr => rfl
  | cfb | ofb => rw [hkept (by decide)]; rfl

/-- The channel after a segment whose `len` bytes are all in the output (R152, R153, R146). -/
theorem Channel.afterStream_eq (ch : Channel) (bs : Nat) (m : StreamMode) (d : Dir) (len : Nat) (r : StreamRegs)
    (h : r.out.length = len) :
    ch.afterStream bs m d len r =
      { ch with
        kpos := r.kpos, ks := r.ks, chain := r.chain, dout := r.out ++ zeros (bs - len), outLen := len
        bmv := true, bmode := streamMode m, st := true
        dirv := if bindsDir (streamMode m) then true else ch.dirv
        dir := if bindsDir (streamMode m) then d else ch.dir } := by
  rw [Channel.afterStream, Channel.writeOut, List.take_of_length_le h.le]
  rfl

/-- The counter that any channel selects exists (R38). -/
theorem State.ctrSel_chan_lt (s : State) (c : Nat) (h : s.Inv) (hc : c < s.chans.length) :
    (s.chan c).ctrSel.toNat < s.cnt.length := by
  obtain ⟨-, ⟨-, hsel, -⟩, -⟩ := s.chan_inv c h (s.length_chans h ▸ hc)
  obtain ⟨-, -, ⟨hcnt, -⟩, -⟩ := h
  exact hcnt ▸ hsel

/-- The registers a channel starts from are in shape (R59). -/
theorem State.streamStart_sized (s : State) (c : Nat) (h : s.Inv) (hc : c < s.chans.length) :
    (s.streamStart (s.chan c)).Sized s.params := by
  obtain ⟨⟨-, -, -, hchain, hks, -⟩, -, ⟨-, ⟨hkpos, -⟩, -⟩, -⟩ := s.chan_inv c h (s.length_chans h ▸ hc)
  have hsel := s.ctrSel_chan_lt c h hc
  obtain ⟨-, -, ⟨-, hblocks, -⟩, -⟩ := h
  exact ⟨hkpos, hks, hchain, hblocks _ (by simp [State.streamStart, State.counter, hsel])⟩

theorem two_le_bs (p : Params) (h : p.WF) : 2 ≤ p.bs := by
  obtain ⟨hbs, -⟩ := h
  omega

/-! ### One segment (R152, R211) -/

/-- The held bytes are part of the segment, and where they do not serve all of it they end KS (R211). -/
theorem Channel.heldBytes_spec (ch : Channel) (bs len : Nat) (hk : ch.kpos < bs) :
    ch.heldBytes bs len ≤ len ∧ (ch.heldBytes bs len ≠ len → (ch.kpos + ch.heldBytes bs len) % bs = 0) := by
  unfold Channel.heldBytes
  split
  next h0 => simp [h0]
  next =>
    refine ⟨Nat.min_le_left .., fun hne => ?_⟩
    rw [show ch.kpos + min len (bs - ch.kpos) = bs by omega, Nat.mod_self]

section
variable (s : State) (m : StreamMode) (d : Dir) (len : Nat) (h : s.Inv) (hlen : len ≤ s.params.bs)
include h hlen

theorem State.length_segment : (s.cur.segment len).length = len := List.length_take_of_le (s.length_din h ▸ hlen)

/-- A segment moves KPOS on by its length and puts out as many bytes. -/
theorem State.streamEnd_keeps :
    (s.streamEnd m d len).kpos = (s.cur.kpos + len) % s.params.bs ∧ (s.streamEnd m d len).out.length = len := by
  have hsized := s.streamStart_sized s.pch h (s.pch_lt h)
  obtain ⟨hkpos, -, -, -, hout⟩ := streamBytes_keeps s.params s.cur.keySlot m d (s.streamStart s.cur) (s.cur.segment len)
    hsized.kpos hsized.ks hsized.chain hsized.ctr
  rw [s.length_segment len h hlen] at hkpos hout
  exact ⟨hkpos, hout.trans (Nat.zero_add _)⟩

/-- The two cases of a segment: the held bytes serve all of it, or one refill serves the rest. -/
theorem State.streamEnd_cases :
    s.streamEnd m d len =
      if s.cur.heldBytes s.params.bs len = len then servedBy s.params m d (s.streamStart s.cur) (s.cur.segment len)
      else
        servedBy s.params m d
          (refill s.params s.cur.keySlot m
            (servedBy s.params m d (s.streamStart s.cur) ((s.cur.segment len).take (s.cur.heldBytes s.params.bs len))))
          ((s.cur.segment len).drop (s.cur.heldBytes s.params.bs len)) := by
  have hsized := s.streamStart_sized s.pch h (s.pch_lt h)
  have hseg := s.length_segment len h hlen
  have hrun := streamBytes_segment s.params s.cur.keySlot m d (s.streamStart s.cur) (s.cur.segment len)
    (s.cur.heldBytes s.params.bs len) (by rw [hseg]; rfl) hsized.kpos (two_le_bs s.params h.1) (hseg.symm ▸ hlen)
    hsized.ks hsized.chain hsized.ctr
  rwa [hseg] at hrun

theorem State.streamEnd_of_held (hheld : s.cur.heldBytes s.params.bs len = len) :
    s.streamEnd m d len =
      { servedBy s.params m d (s.streamStart s.cur) (s.cur.din.take len) with
        kpos := (s.cur.kpos + len) % s.params.bs } := by
  obtain ⟨hkpos, -⟩ := s.streamEnd_keeps m d len h hlen
  rw [← hkpos, s.streamEnd_cases m d len h hlen, if_pos hheld]
  rfl

/-- A refill finds KS used up: KPOS is back at 0. -/
theorem State.streamEnd_of_refill (hheld : s.cur.heldBytes s.params.bs len ≠ len) :
    s.streamEnd m d len =
      { servedBy s.params m d
          (refill s.params s.cur.keySlot m
            { servedBy s.params m d (s.streamStart s.cur) (s.cur.din.take (s.cur.heldBytes s.params.bs len)) with kpos := 0 })
          ((s.cur.din.take len).drop (s.cur.heldBytes s.params.bs len)) with
        kpos := (s.cur.kpos + len) % s.params.bs } := by
  have hsized := s.streamStart_sized s.pch h (s.pch_lt h)
  obtain ⟨hle, hwrap⟩ := s.cur.heldBytes_spec s.params.bs len hsized.kpos
  have htake : (s.cur.segment len).take (s.cur.heldBytes s.params.bs len) =
      s.cur.din.take (s.cur.heldBytes s.params.bs len) := by rw [Channel.segment, List.take_take, Nat.min_eq_left hle]
  have hzero : (s.cur.kpos + (s.cur.din.take (s.cur.heldBytes s.params.bs len)).length) % s.params.bs = 0 := by
    rw [List.length_take_of_le (by rw [s.length_din h]; omega), hwrap hheld]
  obtain ⟨hkpos, -⟩ := s.streamEnd_keeps m d len h hlen
  rw [← hkpos, ← hzero, s.streamEnd_cases m d len h hlen, if_neg hheld, htake]
  rfl

end

/-- Settles O49: the command is its segment completed, and the two cases of a segment are the two completions. -/
theorem cfbSegmentCommands : Obligations.CfbSegmentCommands := by
  intro s d len hinv hadm hlen ch i r in1 in2 out1 fb ks out2 bound
  have hi : i = streamInstr .cfb d len := by cases d <;> rfl
  have hcomplete : s.complete (s.streamSeg .cfb d len ch) =
      s.ended (s.streamEnd .cfb d len).calls (ch.afterStream s.params.bs .cfb d len (s.streamEnd .cfb d len)) := rfl
  obtain ⟨-, hout⟩ := s.streamEnd_keeps .cfb d len hinv hlen
  rw [hi, exec_streamInstr_admitted .cfb d len s hadm hlen, hcomplete, ch.afterStream_eq _ .cfb d len _ hout]
  by_cases hr : r = len
  · have hin : in1 = ch.din.take len := congrArg ch.din.take hr
    rw [if_pos hr, s.streamEnd_of_held .cfb d len hinv hlen hr, ← hin]
    cases d <;> rfl
  · rw [if_neg hr, s.streamEnd_of_refill .cfb d len hinv hlen hr]
    cases d <;> rfl

/-! ### A stream of segments (R118, R213) -/

/-- State `s` is inside a stream that began in `s₀` on channel `c`: the parameters and the channel's CFG are those of `s₀`, the
channel admits the next segment, the loop's registers are `r`, and no counter but the selected one has changed. -/
structure State.InStream (s₀ : State) (c : Nat) (m : StreamMode) (d : Dir) (r : StreamRegs) (s : State) : Prop where
  params : s.params = s₀.params
  lt : c < s.chans.length
  slot : (s.chan c).keySlot = (s₀.chan c).keySlot
  sel : (s.chan c).ctrSel = (s₀.chan c).ctrSel
  admits : State.Admits { s with pch := c } (streamMode m) d
  start : s.streamStart (s.chan c) = r
  cnt : s.cnt = s₀.cnt.set (s₀.chan c).ctrSel.toNat r.ctr

theorem State.inStream_self (s : State) (c : Nat) (m : StreamMode) (d : Dir) (hc : c < s.chans.length)
    (ha : State.Admits { s with pch := c } (streamMode m) d) : State.InStream s c m d (s.streamStart (s.chan c)) s :=
  ⟨rfl, hc, rfl, rfl, ha, rfl, (set_getD_self ..).symm⟩

/-- A prepared segment is in DIN, and the loop starts from the channel's registers. -/
theorem State.streamEnd_prepare (s : State) (c : Nat) (seg : Block) (i : Instr) (m : StreamMode) (d : Dir)
    (hc : c < s.chans.length) :
    (s.prepare c seg i).streamEnd m d seg.length =
      streamBytes s.params (s.chan c).keySlot m d (s.streamStart (s.chan c)) seg := by
  rw [State.streamEnd, s.cur_prepare c seg i hc, Channel.segment, List.take_left]
  rfl

theorem State.cur_complete_streamSeg (s : State) (m : StreamMode) (d : Dir) (len : Nat) (hc : s.pch < s.chans.length) :
    (s.complete (s.streamSeg m d len s.cur)).cur =
      { s.cur.afterStream s.params.bs m d len (s.streamEnd m d len) with done := true } :=
  (s.cur_complete _ hc).trans (by cases m <;> rfl)

/-- The valid bytes of DOUT are those the loop puts out (R48, R153). -/
theorem State.output_complete_streamSeg (s : State) (m : StreamMode) (d : Dir) (len : Nat) (hc : s.pch < s.chans.length)
    (hout : (s.streamEnd m d len).out.length = len) :
    ((s.complete (s.streamSeg m d len s.cur)).chan s.pch).output = (s.streamEnd m d len).out := by
  refine (congrArg Channel.output (s.cur_complete_streamSeg m d len hc)).trans ?_
  rw [Channel.afterStream_eq _ _ m d len _ hout]
  exact List.take_left' hout

/-- A stream command binds its mode and direction, and leaves KEY_SLOT, FATAL and the loaded IV or counter, so the channel admits
the next one (R144, R146). -/
theorem State.admits_complete_streamSeg (s : State) (m : StreamMode) (d : Dir) (len : Nat) (hc : s.pch < s.chans.length)
    (h : s.Admits (streamMode m) d) : (s.complete (s.streamSeg m d len s.cur)).Admits (streamMode m) d := by
  obtain ⟨hfatal, -, hkey, hiv, hctr⟩ := h
  unfold State.Admits
  rw [s.cur_complete_streamSeg m d len hc, s.complete_streamSeg]
  refine ⟨hfatal, fun _ => rfl, hkey, fun hb => ⟨(hiv hb).1, fun _ => ?_⟩, hctr⟩
  exact if_pos hb

section
variable {s₀ s : State} {c : Nat} {m : StreamMode} {d : Dir} {r : StreamRegs}

theorem State.InStream.prepare (h : State.InStream s₀ c m d r s) (seg : Block) (i : Instr) :
    State.InStream s₀ c m d r (s.prepare c seg i) := by
  have hcur : (s.prepare c seg i).chan c = _ := s.cur_prepare c seg i h.lt
  have hadm := s.prepare_admits c seg i _ _ h.lt h.admits
  refine ⟨h.params, (s.length_chans_prepare c seg i).symm ▸ h.lt, ?_, ?_, hadm, ?_, h.cnt⟩ <;> rw [hcur]
  · exact h.slot
  · exact h.sel
  · exact h.start

/-- The completed segment of the executing channel leaves the stream at the registers of the loop. -/
theorem State.InStream.complete (h : State.InStream s₀ s.pch m d r s) (hsel : (s₀.chan s.pch).ctrSel.toNat < s₀.cnt.length)
    (len : Nat) :
    State.InStream s₀ s.pch m d (s.streamEnd m d len).restart (s.complete (s.streamSeg m d len s.cur)) := by
  have hchan : (s.complete (s.streamSeg m d len s.cur)).chan s.pch = _ := s.cur_complete_streamSeg m d len h.lt
  have hcnt : (s.complete (s.streamSeg m d len s.cur)).cnt =
      s₀.cnt.set (s₀.chan s.pch).ctrSel.toNat (s.streamEnd m d len).ctr := by
    rw [s.complete_streamSeg, ← h.sel]
    exact (congrArg (List.set · _ _) h.cnt).trans (h.sel ▸ List.set_set ..)
  have hsel' : ((s.complete (s.streamSeg m d len s.cur)).chan s.pch).ctrSel = (s₀.chan s.pch).ctrSel := by
    rw [hchan]; exact h.sel
  have hctr : (s.complete (s.streamSeg m d len s.cur)).counter ((s.complete (s.streamSeg m d len s.cur)).chan s.pch) =
      (s.streamEnd m d len).ctr := by rw [State.counter, hcnt, hsel', getD_set_same _ _ _ _ hsel]
  refine ⟨h.params, by simpa using h.lt, ?_, hsel', s.admits_complete_streamSeg m d len h.lt h.admits, ?_, hcnt⟩
  · rw [hchan]; exact h.slot
  · rw [State.streamStart, hctr, hchan]; rfl

/-- One command of a stream puts out the bytes the loop gives for its segment, and the stream goes on from the registers it
leaves. -/
theorem State.InStream.run (h : State.InStream s₀ c m d r s) (hsel : (s₀.chan c).ctrSel.toNat < s₀.cnt.length)
    (hr : r.Sized s₀.params) (seg : Block) (hseg : seg.length ≤ s₀.params.bs) :
    ∃ t, State.InStream s₀ c m d (streamBytes s₀.params (s₀.chan c).keySlot m d r seg).restart t ∧
      ∀ rest, State.runSegments c (streamInstr m d) s (seg :: rest) =
        (State.runSegments c (streamInstr m d) t rest).map fun q =>
          (q.1, (streamBytes s₀.params (s₀.chan c).keySlot m d r seg).out :: q.2) := by
  generalize hu : s.prepare c seg (streamInstr m d seg.length) = u
  have hprep : State.InStream s₀ u.pch m d r u := hu ▸ h.prepare seg (streamInstr m d seg.length)
  have hpch : u.pch = c := hu ▸ rfl
  have hend : u.streamEnd m d seg.length = streamBytes s₀.params (s₀.chan c).keySlot m d r seg := by
    rw [← hu, s.streamEnd_prepare c seg _ m d h.lt, h.params, h.slot, h.start]
  have hexec := exec_streamInstr_admitted m d seg.length u hprep.admits (hprep.params.symm ▸ hseg)
  obtain ⟨-, -, -, -, hlen⟩ := streamBytes_keeps s₀.params (s₀.chan c).keySlot m d r seg hr.kpos hr.ks hr.chain hr.ctr
  have hout : r.out = [] := h.start ▸ rfl
  rw [hout, ← hend] at hlen
  have houtput := u.output_complete_streamSeg m d seg.length hprep.lt (hlen.trans (Nat.zero_add _))
  have hnext := hprep.complete (hpch ▸ hsel) seg.length
  rw [hpch, hend] at houtput hnext
  exact ⟨_, hnext, fun rest => by rw [← houtput, s.runSegments_cons _ c _ seg rest ((congrArg (exec _) hu).trans hexec)]⟩

/-- A run of segments puts out the bytes the loop gives for their concatenation, and ends in the registers it leaves (R213, R223,
R235), by induction on the segments. -/
theorem State.InStream.run_segments (segs : List Block) (h : State.InStream s₀ c m d r s)
    (hsel : (s₀.chan c).ctrSel.toNat < s₀.cnt.length) (hr : r.Sized s₀.params)
    (hsegs : ∀ seg ∈ segs, seg.length ≤ s₀.params.bs) :
    ∃ t outs, State.runSegments c (streamInstr m d) s segs = some (t, outs) ∧
      outs.flatten = (streamBytes s₀.params (s₀.chan c).keySlot m d r segs.flatten).out ∧
      State.InStream s₀ c m d (streamBytes s₀.params (s₀.chan c).keySlot m d r segs.flatten).restart t := by
  induction segs generalizing s r with
  | nil =>
    obtain rfl := h.start
    exact ⟨s, [], rfl, rfl, h⟩
  | cons seg rest ih =>
    obtain ⟨hseg, hrest⟩ := List.forall_mem_cons.1 hsegs
    obtain ⟨t, hnext, hrun⟩ := h.run hsel hr seg hseg
    have hr' := (streamBytes_sized s₀.params (s₀.chan c).keySlot m d r seg hr).restart
    obtain ⟨u, outs, hrunRest, houts, hlast⟩ := ih hnext hr' hrest
    obtain ⟨hregs, hbytes⟩ := streamBytes_restart s₀.params (s₀.chan c).keySlot m d
      (streamBytes s₀.params (s₀.chan c).keySlot m d r seg) rest.flatten
    refine ⟨u, _ :: outs, by rw [hrun, hrunRest]; rfl, ?_, ?_⟩
    · rw [List.flatten_cons, List.flatten_cons, streamBytes_append, hbytes, houts]
    · rw [List.flatten_cons, streamBytes_append, hregs]; exact hlast

end

/-- A stream on a channel that admits it is the loop over the whole message. -/
theorem State.run_stream (s : State) (c : Nat) (m : StreamMode) (d : Dir) (segs : List Block) (h : s.Inv)
    (hc : c < s.params.nch) (ha : State.Admits { s with pch := c } (streamMode m) d)
    (hsegs : ∀ seg ∈ segs, seg.length ≤ s.params.bs) :
    ∃ t outs, State.runSegments c (streamInstr m d) s segs = some (t, outs) ∧
      outs.flatten = (streamBytes s.params (s.chan c).keySlot m d (s.streamStart (s.chan c)) segs.flatten).out ∧
      State.InStream s c m d
        (streamBytes s.params (s.chan c).keySlot m d (s.streamStart (s.chan c)) segs.flatten).restart t := by
  have hlt : c < s.chans.length := s.length_chans h ▸ hc
  exact (s.inStream_self c m d hlt ha).run_segments segs (s.ctrSel_chan_lt c h hlt) (s.streamStart_sized c h hlt) hsegs

/-- Settles O52: both runs are the loop over the same message, so they put out the same bytes and end in the same registers. -/
theorem streamOutputIgnoresTheSplit : Obligations.StreamOutputIgnoresTheSplit := by
  intro m d s c segs segs' hinv hc hadm hsegs hsegs' hmsg
  obtain ⟨t, outs, hrun, hout, hend⟩ := s.run_stream c m d segs hinv hc hadm hsegs
  obtain ⟨t', outs', hrun', hout', hend'⟩ := s.run_stream c m d segs' hinv hc hadm hsegs'
  rw [← hmsg] at hout' hend'
  have hregs := hend.start.trans hend'.start.symm
  exact ⟨t, outs, t', outs', hrun, hrun', hout.trans hout'.symm, congrArg StreamRegs.chain hregs,
    congrArg StreamRegs.ks hregs, congrArg StreamRegs.kpos hregs, hend.cnt.trans hend'.cnt.symm⟩

/-! ### The mode a block at a time (R213, R223, R235) -/

/-- The block that the next refill encrypts: CHAIN in CFB and OFB, the counter in CTR (R210, R220, R231). -/
def StreamRegs.source (m : StreamMode) (r : StreamRegs) : Block :=
  match m with
  | .cfb | .ofb => r.chain
  | .ctr => r.ctr

/-- The block the reference mode encrypts after `v` when the block between them was `x`. -/
def nextSource (p : Params) (slot : BitVec 8) (m : StreamMode) (d : Dir) (v x : Block) : Block :=
  match m with
  | .cfb => feedback d (xorBlock x (encBlock p slot v)) x
  | .ofb => encBlock p slot v
  | .ctr => inc v

theorem blockStream_cons (p : Params) (slot : BitVec 8) (m : StreamMode) (d : Dir) (v x : Block) (rest : List Block) :
    blockStream p slot m d v (x :: rest) =
      xorBlock x (encBlock p slot v) :: blockStream p slot m d (nextSource p slot m d v x) rest := by
  cases m <;> rfl

section
variable (p : Params) (slot : BitVec 8) (m : StreamMode) (d : Dir) (r : StreamRegs) (x : Block) (hbs : 2 ≤ p.bs)
  (hr : r.Sized p) (h0 : r.kpos = 0)
include hbs hr h0

/-- From KPOS = 0 the loop XORs a block, or a shorter last one, with E of the source. -/
theorem streamBytes_block_out (hx : x.length ≤ p.bs) :
    (streamBytes p slot m d r x).out = r.out ++ xorBlock x (encBlock p slot (r.source m)) := by
  by_cases hnil : x = []
  · subst hnil
    exact (List.append_nil _).symm
  · rw [streamBytes_fresh p slot m d r x hnil h0 hbs hx hr.chain hr.ctr]
    cases m <;> simp [refill, StreamRegs.source, h0]

/-- A full block brings KPOS back to 0, with the reference mode's next block as the source. -/
theorem streamBytes_block_next (hx : x.length = p.bs) :
    (streamBytes p slot m d r x).kpos = 0 ∧
      (streamBytes p slot m d r x).source m = nextSource p slot m d (r.source m) x := by
  have hnil : x ≠ [] := List.ne_nil_of_length_pos (by omega)
  rw [streamBytes_fresh p slot m d r x hnil h0 hbs hx.le hr.chain hr.ctr]
  refine ⟨?_, ?_⟩
  · have hk : (refill p slot m r).kpos = 0 := by cases m <;> exact h0
    simp only [hk, hx, Nat.zero_add, Nat.mod_self]
  · cases m with
    | ofb | ctr => rfl
    | cfb =>
      have hall := overwrite_all r.chain (feedback d (xorBlock x (encBlock p slot r.chain)) x)
        (by cases d <;> simp [feedback, hx, hr.chain])
      simp only [refill, StreamRegs.source, h0, List.drop_zero, nextSource, if_true, hall]

end

/-- The loop over full blocks and a possibly shorter last one is the reference mode, by induction on the blocks. -/
theorem streamBytes_blocks (p : Params) (slot : BitVec 8) (m : StreamMode) (d : Dir) (r : StreamRegs) (blocks : List Block)
    (hbs : 2 ≤ p.bs) (hr : r.Sized p) (h0 : r.kpos = 0) (hle : ∀ b ∈ blocks, b.length ≤ p.bs)
    (hfull : ∀ b ∈ blocks.dropLast, b.length = p.bs) :
    (streamBytes p slot m d r blocks.flatten).out = r.out ++ (blockStream p slot m d (r.source m) blocks).flatten := by
  induction blocks generalizing r with
  | nil => exact (List.append_nil _).symm
  | cons x rest ih =>
    obtain ⟨hx, hrest⟩ := List.forall_mem_cons.1 hle
    have hout := streamBytes_block_out p slot m d r x hbs hr h0 hx
    rw [List.flatten_cons, streamBytes_append, blockStream_cons, List.flatten_cons, ← List.append_assoc, ← hout]
    cases rest with
    | nil => exact (List.append_nil _).symm
    | cons y ys =>
      rw [List.dropLast_cons_cons] at hfull
      obtain ⟨hxfull, hfull'⟩ := List.forall_mem_cons.1 hfull
      obtain ⟨hkpos, hsource⟩ := streamBytes_block_next p slot m d r x hbs hr h0 hxfull
      rw [← hsource]
      exact ih _ (streamBytes_sized p slot m d r x hr) hkpos hrest hfull'

/-- Settles O53: the run is the loop over the message, which is that over the blocks. -/
theorem streamEqualsTheBlockwiseMode : Obligations.StreamEqualsTheBlockwiseMode := by
  intro m d s c segs blocks hinv hc hadm hkpos hsegs hle hfull hmsg v
  obtain ⟨t, outs, hrun, hout, -⟩ := s.run_stream c m d segs hinv hc hadm hsegs
  have hsized := s.streamStart_sized c hinv (s.length_chans hinv ▸ hc)
  have hsource : (s.streamStart (s.chan c)).source m = v := by
    cases m with
    | cfb | ofb => rfl
    | ctr =>
      have hsel := s.ctrSel_chan_lt c hinv (s.length_chans hinv ▸ hc)
      exact (List.getD_eq_getElem _ _ hsel).trans (List.getD_eq_getElem _ _ hsel).symm
  have hblocks := streamBytes_blocks s.params (s.chan c).keySlot m d (s.streamStart (s.chan c)) blocks (two_le_bs _ hinv.1)
    hsized hkpos hle hfull
  rw [hsource, ← hmsg] at hblocks
  exact ⟨t, outs, hrun, hout.trans hblocks⟩

end Sys2Proof.Machine

/-! PROOFS. The OFB segment (R152, R220 to R222). -/

namespace Sys2Proof.Machine

/-- Settles O50: on the held bytes alone the loop leaves KS and CHAIN as they are, and otherwise its one refill puts E(CHAIN) into
both; in neither case does the direction enter. -/
theorem ofbSegmentCommands : Obligations.OfbSegmentCommands := by
  intro s d len hinv hadm hlen ch i r out1 ks out2 bound
  have hi : i = streamInstr .ofb d len := by cases d <;> rfl
  have hcomplete : s.complete (s.streamSeg .ofb d len ch) =
      s.ended (s.streamEnd .ofb d len).calls (ch.afterStream s.params.bs .ofb d len (s.streamEnd .ofb d len)) := rfl
  obtain ⟨-, hout⟩ := s.streamEnd_keeps .ofb d len hinv hlen
  rw [hi, exec_streamInstr_admitted .ofb d len s hadm hlen, hcomplete, ch.afterStream_eq _ .ofb d len _ hout]
  by_cases hr : r = len
  · have hout1 : out1 = xorBlock (ch.din.take len) (ch.ks.drop ch.kpos) :=
      congrArg (fun n => xorBlock (ch.din.take n) (ch.ks.drop ch.kpos)) hr
    rw [if_pos hr, s.streamEnd_of_held .ofb d len hinv hlen hr, hout1]
    rfl
  · rw [if_neg hr, s.streamEnd_of_refill .ofb d len hinv hlen hr]
    rfl

end Sys2Proof.Machine

/-! PROOFS. The counter increment and the CTR segment (R152, R230 to R233). -/

namespace Sys2Proof.Machine

/-! ### The increment (R230) -/

@[simp] theorem blkOf_zero (n : Nat) : blkOf n 0 = zeros n := by
  induction n with
  | zero => rfl
  | succ n ih => simp [blkOf, ih, List.replicate_succ]

/-- All ones is the last number below `256 ^ n` (R17). -/
theorem blkInt_allOnes_succ (n : Nat) : blkInt (List.replicate n 0xFF) + 1 = 256 ^ n := by
  induction n with
  | zero => rfl
  | succ n ih =>
    have hbyte : (0xFF : Byte).toNat = 255 := rfl
    rw [List.replicate_succ, blkInt, List.length_replicate, hbyte, Nat.add_assoc, ih]
    ring

theorem blkInt_inc (x : Block) : blkInt (inc x) = (blkInt x + 1) % 2 ^ (8 * x.length) := by
  rw [inc, blkInt_blkOf, Nat.pow_mul]

/-- All ones plus one is `256 ^ n`, which a block of `n` bytes holds as 0. -/
theorem inc_allOnes (n : Nat) : inc (List.replicate n 0xFF) = zeros n := by
  rw [inc, List.length_replicate, blkInt_allOnes_succ, ← blkOf_mod, Nat.mod_self, blkOf_zero]

/-- Settles O58: `inc` is `blk` of the integer view plus one, and `blk` takes its number modulo the block. -/
theorem incrementAddsOneModuloTheBlock : Obligations.IncrementAddsOneModuloTheBlock :=
  ⟨fun x => ⟨length_inc x, blkInt_inc x⟩, inc_allOnes, by decide⟩

/-! ### The segment (R231 to R233) -/

/-- The selected counter of the executing channel is one of the counter file, and a block (R36, R38). -/
theorem State.counter_cur (s : State) (h : s.Inv) :
    s.cnt.getD s.cur.ctrSel.toNat [] = s.counter s.cur ∧ (s.counter s.cur).length = s.params.bs := by
  have hsel := s.ctrSel_chan_lt s.pch h (s.pch_lt h)
  refine ⟨?_, (s.streamStart_sized s.pch h (s.pch_lt h)).ctr⟩
  exact (List.getD_eq_getElem _ _ hsel).trans (List.getD_eq_getElem _ _ hsel).symm

/-- Settles O51: on the held bytes alone the loop leaves KS and the counter as they are, and otherwise its one refill puts E of
the counter into KS and increments it; in neither case does the direction enter. -/
theorem ctrSegmentCommands : Obligations.CtrSegmentCommands := by
  intro s d len hinv hadm hlen ch i k v r out1 ks out2 bound
  have hi : i = streamInstr .ctr d len := by cases d <;> rfl
  obtain ⟨hv : v = s.counter ch, hsize⟩ := s.counter_cur hinv
  clear_value v
  subst hv
  obtain ⟨-, hout⟩ := s.streamEnd_keeps .ctr d len hinv hlen
  rw [hi, exec_streamInstr_admitted .ctr d len s hadm hlen, s.complete_streamSeg, ch.afterStream_eq _ .ctr d len _ hout]
  by_cases hr : r = len
  · have hout1 : out1 = xorBlock (ch.din.take len) (ch.ks.drop ch.kpos) :=
      congrArg (fun n => xorBlock (ch.din.take n) (ch.ks.drop ch.kpos)) hr
    have hkept : s.cnt.set k (s.counter ch) = s.cnt := set_getD_self ..
    rw [if_pos hr, s.streamEnd_of_held .ctr d len hinv hlen hr, hout1]
    exact congrArg (fun cnt => Host.Outcome.next { s.ended [] _ with cnt := cnt }) hkept
  · have hinc : blkOf s.params.bs (blkInt (s.counter ch) + 1) = inc (s.counter ch) := by rw [inc, hsize]
    rw [if_neg hr, s.streamEnd_of_refill .ctr d len hinv hlen hr, hinc]
    rfl

end Sys2Proof.Machine

/-! PROOFS. Reset (R290 to R293): what it leaves, what the window then reads, and the two ways into it. -/

namespace Sys2Proof.Machine

/-! ### The reset state (R291) -/

/-- Settles O28: the reset state meets the invariant whatever the pin, the queue and the bus answer, so also with the pin
released, no move queued and no answer. -/
theorem resetMeetsTheInvariant : Obligations.ResetMeetsTheInvariant :=
  ⟨fun p hp => State.resetFor_inv p false [] .idle hp, State.resetFor_inv .tcfg false [] .idle (by decide)⟩

/-! ### The soft reset (R292) -/

/-- Offset 0x00C is GCTRL, whose write is the soft reset or nothing (R33). -/
theorem State.writeWindow_gctrl (s : State) (v : Word) :
    s.writeWindow 0x00C v = if v.getLsbD 0 then s.doReset else s := rfl

/-- Settles O26: the write is the block's own reset, which leaves nothing pending, or nothing. -/
theorem softResetIsAWholeReset : Obligations.SoftResetIsAWholeReset := by
  intro s v
  rw [s.writeWindow_gctrl v]
  refine ⟨fun hv => ?_, fun hv => if_neg (Bool.eq_false_iff.1 hv)⟩
  rw [if_pos hv]
  exact ⟨rfl, s.doReset_gbusy⟩

/-! ### The reset pin (R290) -/

/-- A queued move is the whole of the next step. -/
theorem step_event (s : State) (e : Event) (rest : List Event) (h : s.events = e :: rest) :
    step s = takeEvent e { s with events := rest } := by
  rw [step, nextMove, h]

/-- While `rst_n` is low the engine does not move (R290). -/
theorem engineTurn_of_rstLow (s : State) (h : s.rstLow = true) : engineTurn s = .next s := by
  rcases engineTurn_cases s with ⟨hready, -⟩ | ⟨-, hturn⟩
  · simp [State.engineReady, h] at hready
  · exact hturn

/-- While `rst_n` is low a legal access gets its answer and reaches nothing: a read gets 0 (R290). -/
theorem State.access_of_rstLow (s : State) (a : BusAccess) (hl : a.legal = true) (h : s.rstLow = true) :
    s.access a = s.respond (if a.write then .written else .read 0) := by
  cases hw : a.write <;> simp [State.access, hl, hw, h]

/-- Releasing a block that is held in reset gives the reset state, with the queue and the last bus answer kept (R290). -/
theorem State.HeldInReset.release {s : State} (h : s.HeldInReset) :
    s.resetEdge false = { State.resetFor s.params with events := s.events, busResp := s.busResp } :=
  congrArg (fun t : State => { t with rstLow := false }) h

/-- Settles O27, by the four moves: the edges of `rst_n`, and the engine's turn and a bus access while it is low. -/
theorem resetPinResetsAndHolds : Obligations.ResetPinResetsAndHolds := by
  intro s rest h
  refine ⟨fun he => step_event s _ rest he, fun hlow he => ?_, fun a hlow hbytes haddr he => ?_, fun hlow he => ?_⟩
  · exact (step_event s _ rest he).trans (engineTurn_of_rstLow _ hlow)
  · have hl : a.legal = true := a.legal_iff.2 ⟨hbytes, haddr⟩
    exact (step_access s a rest he).trans (congrArg _ (State.access_of_rstLow _ a hl hlow))
  · obtain ⟨-, -, -, -, -, -, hheld⟩ := s.events_inv rest h
    exact (step_event s _ rest he).trans (congrArg _ (hheld hlow).release)

/-! ### What the window reads after reset (R291) -/

theorem State.irq_resetFor (p : Params) : (State.resetFor p).irq = false := by
  simp [State.irq, Channel.reset]

/-- GSTATUS shows FATAL alone (R31). -/
theorem State.gstatusWord_resetFor (p : Params) :
    (State.resetFor p).gstatusWord.toNat = if p.primBs ≠ p.bs then 2 else 0 := by
  rw [State.gstatusWord, State.irq_resetFor, State.resetFor_gbusy, State.resetFor_fatal]
  by_cases hfatal : p.primBs ≠ p.bs
  · rw [decide_eq_true hfatal, if_pos hfatal]; rfl
  · rw [decide_eq_false hfatal, if_neg hfatal]; rfl

/-- CFG shows CTR_SEL alone (R38). -/
theorem Channel.cfgWord_reset (p : Params) (c : Nat) (hp : p.WF) :
    (Channel.reset p c).cfgWord.toNat = c % p.nctr * 256 := by
  obtain ⟨-, -, ⟨hpos, hle⟩, -⟩ := hp
  have hsel : c % p.nctr < 8 := (Nat.mod_lt c hpos).trans_le hle
  simp only [Channel.cfgWord, Channel.reset]
  generalize c % p.nctr = k at hsel ⊢
  interval_cases k <;> rfl

/-- A word of a block of zeros reads 0 (R86). -/
theorem readLanes_zeros (n w : Nat) : readLanes (zeros n) w = 0 := by
  have hlane (i : Nat) : lane (zeros n) w i = 0 := List.getElem?_getD_replicate_default_eq ..
  simp only [readLanes, hlane]
  rfl

theorem bitsNat_replicate_false (n : Nat) : bitsNat (List.replicate n false) = 0 := by
  induction n with
  | zero => rfl
  | succ n ih => rw [List.replicate_succ, bitsNat, ih]; rfl

/-- A counter, present or not, reads 0 (R36). -/
theorem State.readCnt_resetFor (p : Params) (k w : Nat) : readLanes ((State.resetFor p).cnt.getD k []) w = 0 := by
  by_cases hk : k < p.nctr
  · rw [State.resetFor_cnt, List.getD_replicate _ hk, readLanes_zeros]
  · rw [State.resetFor_cnt, List.getD_eq_default _ _ (by simpa using hk)]
    exact readLanes_zeros 0 w

@[simp] theorem putField_zero (lo n : Nat) : putField 0 lo n = 0 := by simp [putField]

@[simp] theorem putBit_false (lo : Nat) : putBit false lo = 0 := putField_zero lo 1

/-- Every register of a bank but CFG reads 0. -/
theorem State.readChan_resetFor (p : Params) (c : Nat) (r : ChanReg) (h : r ≠ .cfg) :
    (State.resetFor p).readChan c r = 0 := by
  cases r with
  | cfg => exact absurd rfl h
  | cmd | reserved => rfl
  | status =>
    simp [State.readChan, State.chan_resetFor, Channel.reset, Channel.statusWord, State.busy, errNumber]
  | state => simp [State.readChan, State.chan_resetFor, Channel.reset, Channel.stateWord, dirBit, modeNumber]
  | irqen => simp [State.readChan, State.chan_resetFor, Channel.reset, Channel.irqenWord]
  | iv w | din w | dout w =>
    simp only [State.readChan, State.chan_resetFor]
    exact readLanes_zeros p.bs w

/-- ID is at offset 0 alone (R85). -/
theorem regAt_eq_id (p : Params) (off : Nat) (h : regAt p off = .id) : off = 0x000 := by
  unfold regAt at h
  split_ifs at h
  assumption

/-- GSTATUS is at offset 4 alone (R85). -/
theorem regAt_eq_gstatus (p : Params) (off : Nat) (h : regAt p off = .gstatus) : off = 0x004 := by
  unfold regAt at h
  split_ifs at h
  assumption

/-- CFG stands at offset 0 of a bank alone (R85). -/
theorem chanRegAt_eq_cfg (r : Nat) (h : chanRegAt r = .cfg) : r = 0x00 := by
  unfold chanRegAt at h
  split_ifs at h
  assumption

/-- CFG of channel c is at B(c) alone (R85). -/
theorem regAt_eq_cfg (p : Params) (off c : Nat) (h : regAt p off = .chan c .cfg) : off = 0x100 + 0x80 * c := by
  unfold regAt at h
  split_ifs at h
  obtain ⟨rfl, hr⟩ := Reg.chan.inj h
  have hzero := chanRegAt_eq_cfg _ hr
  omega

/-- Settles O25: ID, GSTATUS and CFG show the parameters, and what the map names at any other offset reads 0. -/
theorem resetRegisterValues : Obligations.ResetRegisterValues := by
  intro p hp s
  refine ⟨rfl, State.gstatusWord_resetFor p, State.irq_resetFor p, fun c hc => ?_, fun off _ hid hgstatus hcfg => ?_⟩
  · have hread : s.readWindow (0x100 + 0x80 * c) = (s.chan c).cfgWord := s.readWindow_chan c 0 hc (by decide)
    rw [hread, State.chan_resetFor, Channel.cfgWord_reset p c hp]
  · show s.readReg (regAt p off) = 0
    cases hreg : regAt p off with
    | id => exact absurd (regAt_eq_id p off hreg) hid
    | gstatus => exact absurd (regAt_eq_gstatus p off hreg) hgstatus
    | ctrvalid => exact congrArg (BitVec.ofNat 32) (bitsNat_replicate_false p.nctr)
    | gctrl | reserved => rfl
    | cnt k w => exact State.readCnt_resetFor p k w
    | chan c r =>
      refine State.readChan_resetFor p c r fun hr => ?_
      subst hr
      exact hcfg c (regAt_chan_lt p off c _ hreg) (regAt_eq_cfg p off c hreg)

end Sys2Proof.Machine

/-! PROOFS. Errors, FATAL and the interrupt (R261 to R267). -/

namespace Sys2Proof.Machine

/-- Settles O7: a queued move, or the engine's turn with none queued, answers a next state (`step_next`). -/
theorem everyStepAnswersANextState : Obligations.EveryStepAnswersANextState := step_next

/-! ### The interrupt (R267) -/

theorem State.chan_eq_getElem (s : State) (c : Nat) (hc : c < s.chans.length) : s.chan c = s.chans[c] :=
  List.getD_eq_getElem _ _ hc

/-- Some bank satisfies a predicate exactly when some channel does. -/
theorem State.any_chans_iff (s : State) (q : Channel → Bool) :
    s.chans.any q = true ↔ ∃ c < s.chans.length, q (s.chan c) = true := by
  rw [List.any_eq_true]
  constructor
  · rintro ⟨ch, hmem, hq⟩
    obtain ⟨c, hc, rfl⟩ := List.mem_iff_getElem.1 hmem
    exact ⟨c, hc, (s.chan_eq_getElem c hc).symm ▸ hq⟩
  · rintro ⟨c, hc, hq⟩
    exact ⟨s.chan c, s.chan_mem c hc, hq⟩

/-- Settles O23: irq is an OR over the banks, and bit 2 of GSTATUS. -/
theorem irqIsTheEnabledCauses : Obligations.IrqIsTheEnabledCauses := by
  intro s
  obtain ⟨-, -, hbit, -⟩ := s.gstatusWord_fields
  refine ⟨?_, hbit⟩
  rw [State.irq, s.any_chans_iff]
  simp only [Bool.or_eq_true, Bool.and_eq_true]

/-! ### FATAL (R265) -/

/-- Under FATAL no effect is reached, whether the command has checks of its own or not (R141). -/
theorem State.runCommand_fatal (s : State) (i : Instr) (effect : Channel → CmdResult) (h : s.fatal = true) :
    s.runCommand i effect = s.failed [] .blockSizeMismatch := by
  unfold State.runCommand
  split
  · exact s.runPlain_fatal effect h
  · exact s.runPlain_fatal _ h

/-- Settles O31: every command is its checks and its effect, both behind FATAL. -/
theorem fatalEndsEveryCommand : Obligations.FatalEndsEveryCommand := by
  intro i s h
  obtain ⟨effect, hexec, -⟩ := exec_frame i s
  rw [hexec, s.runCommand_fatal i effect h]

/-! ### Precise errors (R142, R143, R262) -/

/-- A result whose writes, if it has any, leave ERR and ERRCODE of the executing channel (R142). -/
def State.KeepsErr (s : State) (r : CmdResult) : Prop :=
  ∀ w, r.result = .ok w → w.chan.err = s.cur.err ∧ w.chan.errCode = s.cur.errCode

theorem State.keepsErr_error (s : State) (r : CmdResult) (e : ErrCode) (h : r.result = .error e) : s.KeepsErr r :=
  fun w hw => by simp [h] at hw

theorem State.keepsErr_ok (s : State) (r : CmdResult) (w : Writes) (h : r.result = .ok w)
    (hw : w.chan.err = s.cur.err ∧ w.chan.errCode = s.cur.errCode) : s.KeepsErr r :=
  fun w' hw' => by cases h.symm.trans hw'; exact hw

/-- What a data command does besides binding leaves ERR and ERRCODE (R142, R146). -/
theorem State.Binds.keepsErr {s : State} {op : DataOp} {m : Mode} {r : CmdResult} (h : s.Binds op m r) : s.KeepsErr r := by
  obtain ⟨-, herror⟩ | ⟨base, cnt, hok, herr, hcode, -⟩ := h
  · exact s.keepsErr_error r _ herror
  · exact s.keepsErr_ok r _ hok ⟨herr, hcode⟩

/-- So does the effect of LDIV, CHRST and DERIVE (R142). -/
theorem exec_plain_keepsErr (i : Instr) (s : State) (h : i.dataForm = none) :
    ∃ effect, exec i s = .next (s.runPlain effect) ∧ s.KeepsErr (effect s.cur) := by
  cases i <;> cases h <;> refine ⟨_, rfl, ?_⟩
  case derive =>
    dsimp only
    split
    · exact s.keepsErr_ok _ _ rfl ⟨rfl, rfl⟩
    · exact s.keepsErr_error _ .invalidKey rfl
  all_goals exact s.keepsErr_ok _ _ rfl ⟨rfl, rfl⟩

/-- Only the error completion writes ERR and ERRCODE: the effect of a command leaves them. -/
theorem exec_keepsErr (i : Instr) (s : State) :
    ∃ effect, exec i s = .next (s.runCommand i effect) ∧ s.KeepsErr (effect s.cur) := by
  cases hi : i.dataForm with
  | some form =>
    obtain ⟨op, m, len⟩ := form
    obtain ⟨effect, hexec, hbinds⟩ := exec_binds i s op m len hi
    exact ⟨effect, by rw [hexec, State.runCommand, hi], hbinds.keepsErr⟩
  | none =>
    obtain ⟨effect, hexec, hkeeps⟩ := exec_plain_keepsErr i s hi
    exact ⟨effect, by rw [hexec, State.runCommand, hi], hkeeps⟩

/-- Every command is a completion whose writes, if it does not fail, leave ERR and ERRCODE. -/
theorem exec_complete_keepsErr (i : Instr) (s t : State) (he : exec i s = .next t) :
    ∃ r, t = s.complete r ∧ s.KeepsErr r := by
  obtain ⟨effect, hexec, heffect⟩ := exec_keepsErr i s
  have ht : t = s.runCommand i effect := Host.Outcome.next.inj (he.symm.trans hexec)
  rcases s.runCommand_cases i effect with ⟨e, hrun⟩ | ⟨-, hrun⟩
  · exact ⟨raiseErr [] e, ht.trans hrun, s.keepsErr_error _ e rfl⟩
  · exact ⟨effect s.cur, ht.trans hrun, heffect⟩

/-- The busy channel has ERR and ERRCODE clear (R140, R143). -/
theorem State.cur_err_of_busy (s : State) (h : s.Inv) (hg : s.gbusy = true) :
    s.cur.err = false ∧ s.cur.errCode = none := by
  obtain ⟨-, herr⟩ := s.chan_clear_of_busy s.pch h hg rfl
  obtain ⟨-, ⟨-, -, -, -, hcode⟩, -⟩ := s.cur_inv h
  exact ⟨herr, by simpa [show s.cur.err = false from herr] using hcode⟩

/-- Settles O33: a completion is the error completion, which is the stated state, or its writes leave ERR and ERRCODE, which
acceptance cleared. -/
theorem errorsArePrecise : Obligations.ErrorsArePrecise := by
  intro i s t h hg he
  obtain ⟨r, rfl, hkeeps⟩ := exec_complete_keepsErr i s t he
  have hcur := s.cur_complete r (s.pch_lt h)
  refine ⟨congrArg Channel.done hcur, ?_⟩
  rw [hcur]
  cases hr : r.result with
  | error e =>
    rw [State.outcome, hr, s.complete_of_error r e hr]
    exact ⟨e, rfl, rfl⟩
  | ok w =>
    obtain ⟨herr, hcode⟩ := hkeeps w hr
    obtain ⟨hclear, hnone⟩ := s.cur_err_of_busy h hg
    rw [State.outcome, hr, if_neg (by simp [herr, hclear])]
    exact hcode.trans hnone

end Sys2Proof.Machine

/-! PROOFS. CMAC (R240 to R248): the doubling, the three commands, and the tag of a whole message. -/

namespace Sys2Proof.Machine

/-! ### Doubling (R240, R241) -/

/-- XOR of two numbers is XOR of their parts above and below bit k. -/
theorem xor_two_pow_mul_add (k a b c d : Nat) (hb : b < 2 ^ k) (hd : d < 2 ^ k) :
    (2 ^ k * a + b) ^^^ (2 ^ k * c + d) = 2 ^ k * (a ^^^ c) + (b ^^^ d) := by
  refine Nat.eq_of_testBit_eq fun j => ?_
  rw [Nat.testBit_xor, Nat.testBit_two_pow_mul_add a hb, Nat.testBit_two_pow_mul_add c hd,
    Nat.testBit_two_pow_mul_add _ (Nat.xor_lt_two_pow hb hd)]
  split <;> rw [Nat.testBit_xor]

/-- XOR of blocks is XOR of their integer views (R17, R151), by induction on the bytes. -/
theorem blkInt_xorBlock (a b : Block) (h : a.length = b.length) : blkInt (xorBlock a b) = blkInt a ^^^ blkInt b := by
  induction a generalizing b with
  | nil =>
    obtain rfl := List.length_eq_zero_iff.1 h.symm
    rfl
  | cons x xs ih =>
    obtain _ | ⟨y, ys⟩ := b
    · simp at h
    · have hlen : xs.length = ys.length := Nat.succ.inj h
      have hcons (z : Byte) (zs : Block) (hz : zs.length = ys.length) :
          blkInt (z :: zs) = 2 ^ (8 * ys.length) * z.toNat + blkInt zs ∧ blkInt zs < 2 ^ (8 * ys.length) := by
        rw [Nat.pow_mul, blkInt, hz, Nat.mul_comm, ← hz]
        exact ⟨rfl, blkInt_lt zs⟩
      obtain ⟨hx, hxs⟩ := hcons x xs hlen
      obtain ⟨hy, hys⟩ := hcons y ys rfl
      obtain ⟨hxy, -⟩ := hcons (x ^^^ y) (xorBlock xs ys) (by simp [hlen])
      rw [xorBlock, List.zipWith_cons_cons, ← xorBlock, hxy, ih ys hlen, hx, hy, xor_two_pow_mul_add _ _ _ _ _ hxs hys,
        BitVec.toNat_xor]

/-- Settles O59: the shift is `blk` of the doubled integer view, and XOR of blocks is XOR of their integer views. -/
theorem doublingShiftsAndReduces : Obligations.DoublingShiftsAndReduces := by
  intro x hx
  have hshift : blkInt (blkOf x.length (2 * blkInt x)) = 2 * blkInt x % 2 ^ (8 * x.length) := by
    rw [blkInt_blkOf, Nat.pow_mul]
  have hrb : blkInt (blkOf x.length (rb x.length)) = if x.length = 8 then 0x1B else 0x87 := by
    rcases hx with h | h <;> rw [h] <;> decide
  refine ⟨length_dbl x, ?_⟩
  unfold dbl
  dsimp only
  split
  · rw [blkInt_xorBlock _ _ (by simp), hshift, hrb]
  · exact hshift

/-! ### DERIVE (R242, R244) -/

/-- Settles O54: without FATAL the key check alone decides between the derived subkeys and InvalidKey. -/
theorem deriveComputesTheSubkeys : Obligations.DeriveComputesTheSubkeys := by
  intro s hfatal ch l
  rw [exec, execDerive, s.runPlain_ok _ hfatal]
  refine ⟨fun hk => ?_, fun hk => ?_⟩
  · rw [if_pos hk]; rfl
  · rw [if_neg (Bool.eq_false_iff.1 hk)]; rfl

/-! ### MACU and MACF (R245 to R247) -/

/-- An admitted CMAC command of a legal length is its effect, completed (R144). -/
theorem State.runCmac_admitted (s : State) (op : DataOp) (len : Nat) (body : Channel → CmdResult)
    (h : s.Admits .cmac .encrypt) (hl : lenOk s.params.bs s.cur.cmip op .cmac len = true) :
    s.runData op .cmac len body = s.complete (body s.cur) := by
  obtain ⟨hfatal, hmode, hkey, -, hctr⟩ := h
  exact s.runData_admitted op .cmac len body hfatal (s.dataCheck_none op .cmac len ⟨hfatal, hmode, hkey, nofun, hctr⟩ hl)

/-- The channel that MACU leaves with `z` as the chaining value: inside a message, bound to CMAC and STREAMING (R245). -/
def Channel.macuOutput (ch : Channel) (z : Block) : Channel :=
  { ch with chain := z, cmip := true, outLen := 0, bmv := true, bmode := .cmac, st := true }

/-- The channel that MACF leaves with the tag `t`: its subkeys held, the message closed, the tag's first TL bytes in DOUT, and
bound to CMAC and STREAMING (R246, R247). -/
def Channel.macfOutput (ch : Channel) (p : Params) (t : Block) : Channel :=
  { ch.withSubkeys p with
    chain := t, cmip := false
    dout := t.take (ch.tagBytes p.bs) ++ zeros (p.bs - ch.tagBytes p.bs), outLen := ch.tagBytes p.bs
    bmv := true, bmode := .cmac, st := true }

/-- What MACF chains last: the last block of a message, masked with a subkey that is derived if it is not held (R246). -/
def Channel.maskedBlock (ch : Channel) (p : Params) (len : Nat) : Block := (ch.withSubkeys p).macFinal p.bs len

section
variable (s : State) (h : s.Admits .cmac .encrypt)
include h

/-- MACU.CMAC (R245). -/
theorem exec_macuCmac :
    exec (.macuCmac s.params.bs) s =
      .next (s.ended [encCall s.cur.keySlot (xorBlock (s.cur.macChain s.params.bs) s.cur.din)]
        (s.cur.macuOutput (cbcStep s.params s.cur.keySlot (s.cur.macChain s.params.bs) s.cur.din))) :=
  congrArg _ (s.runCmac_admitted .macu _ _ h (by simp [lenOk]))

/-- MACF.CMAC (R246, R247). -/
theorem exec_macfCmac (len : Nat) (hlen : len ≤ s.params.bs) (hopen : ¬(len = 0 ∧ s.cur.cmip = true)) :
    exec (.macfCmac len) s =
      .next (s.ended
        (s.cur.subkeyCalls s.params ++
          [encCall s.cur.keySlot (xorBlock (s.cur.macChain s.params.bs) (s.cur.maskedBlock s.params len))])
        (s.cur.macfOutput s.params
          (cbcStep s.params s.cur.keySlot (s.cur.macChain s.params.bs) (s.cur.maskedBlock s.params len)))) := by
  refine congrArg _ ((s.runCmac_admitted .macf len _ h (by simpa [lenOk, hlen, imp_iff_not_or] using hopen)).trans ?_)
  rw [s.complete_writesChan, Channel.writeOut, List.take_take, Nat.min_self]
  rfl

end

/-- Settles O55: at LEN = BS every check is passed. -/
theorem macuAbsorbsABlock : Obligations.MacuAbsorbsABlock := fun s _ hadm => exec_macuCmac s hadm

/-- TAGLEN is 0 as a register exactly when it is as a number (R247). -/
theorem Channel.tagBytes_eq (ch : Channel) (bs : Nat) :
    ch.tagBytes bs = if ch.tagLen.toNat = 0 then bs else ch.tagLen.toNat := by
  have hzero : ch.tagLen = 0 ↔ ch.tagLen.toNat = 0 := BitVec.toNat_eq
  simp only [Channel.tagBytes, hzero]

/-- The subkeys are those held, or else those of the key (R246). -/
theorem Channel.withSubkeys_eq_ite (ch : Channel) (p : Params) :
    ch.withSubkeys p =
      { ch with
        k1 := if ch.skv = true then ch.k1 else dbl (encBlock p ch.keySlot (zeros p.bs))
        k2 := if ch.skv = true then ch.k2 else dbl (dbl (encBlock p ch.keySlot (zeros p.bs)))
        skv := true } := by
  unfold Channel.withSubkeys
  split
  next hskv => exact congrArg (fun held => { ch with skv := held }) hskv
  next => rfl

/-- The masked block is the full block with K1, or the segment with `0x80` and zeros with K2 (R246). -/
theorem Channel.maskedBlock_eq_ite (ch : Channel) (p : Params) (len : Nat) :
    ch.maskedBlock p len =
      if len = p.bs then xorBlock ch.din (ch.withSubkeys p).k1
      else xorBlock (ch.din.take len ++ [0x80] ++ zeros (p.bs - len - 1)) (ch.withSubkeys p).k2 := by
  have hblock : (ch.withSubkeys p).macBlock p.bs len = ch.macBlock p.bs len := by rw [ch.withSubkeys_eq_ite]; rfl
  rw [Channel.maskedBlock, Channel.macFinal, hblock, Channel.macBlock]
  split <;> rfl

/-- Settles O56: MACF's rule, with the subkeys, the masked block and the tag length written out. -/
theorem macfProducesTheTag : Obligations.MacfProducesTheTag := by
  intro s len _ hadm hlen hopen
  rw [exec_macfCmac s hadm len hlen hopen, Channel.macfOutput, Channel.maskedBlock_eq_ite, Channel.withSubkeys_eq_ite,
    Channel.tagBytes_eq]
  rfl

/-! ### The tag of a message (R248) -/

/-- The last block of a message under the reference CMAC: masked with its subkey, and padded if it is short (R248). -/
def cmacLast (p : Params) (slot : BitVec 8) (last : Block) : Block :=
  let k1 := dbl (encBlock p slot (zeros p.bs))
  if last.length = p.bs then xorBlock last k1
  else xorBlock (last ++ [0x80] ++ zeros (p.bs - last.length - 1)) (dbl k1)

/-- The reference CMAC chains the blocks from the zero block, and then the masked last one. -/
theorem cmacTag_eq (p : Params) (slot : BitVec 8) (init : List Block) (last : Block) :
    cmacTag p slot init last = cbcStep p slot (cbcChain p slot (zeros p.bs) init) (cmacLast p slot last) := rfl

theorem length_cmacLast (p : Params) (slot : BitVec 8) (last : Block) (h : last.length ≤ p.bs) :
    (cmacLast p slot last).length = p.bs := by
  unfold cmacLast
  split
  next hfull => simp [hfull]
  next =>
    simp only [length_xorBlock, length_dbl, length_encBlock, List.length_append, List.length_singleton, List.length_replicate]
    omega

theorem length_cmacTag (p : Params) (slot : BitVec 8) (init : List Block) (last : Block)
    (hinit : ∀ b ∈ init, b.length = p.bs) (hlast : last.length ≤ p.bs) : (cmacTag p slot init last).length = p.bs :=
  length_cbcStep p slot (length_cbcChain p slot _ init List.length_replicate hinit) (length_cmacLast p slot last hlast)

/-- Held or derived, the subkeys of a channel that meets its invariant are those of its key (R243, R246). -/
theorem Channel.withSubkeys_reference (ch : Channel) (p : Params) (h : ch.Subkeys p) :
    (ch.withSubkeys p).k1 = dbl (encBlock p ch.keySlot (zeros p.bs)) ∧
      (ch.withSubkeys p).k2 = dbl (dbl (encBlock p ch.keySlot (zeros p.bs))) := by
  unfold Channel.withSubkeys
  split
  next hskv =>
    obtain ⟨-, hk1, hk2⟩ := h hskv
    exact ⟨hk1, hk1 ▸ hk2⟩
  next => exact ⟨rfl, rfl⟩

/-- With the last segment in DIN, MACF's masked block is the reference CMAC's, whether the subkeys were held or not. -/
theorem Channel.maskedBlock_reference (ch : Channel) (p : Params) (last : Block) (h : ch.Subkeys p)
    (hdin : ch.din = last ++ zeros (p.bs - last.length)) :
    ch.maskedBlock p last.length = cmacLast p ch.keySlot last := by
  obtain ⟨hk1, hk2⟩ := ch.withSubkeys_reference p h
  rw [Channel.maskedBlock_eq_ite, hk1, hk2, hdin, List.take_left, cmacLast]
  split
  next hfull => rw [hfull, Nat.sub_self]; simp
  next => rfl

/-- The valid bytes of DOUT after MACF are the tag's first TL bytes (R247). -/
theorem Channel.output_macfOutput (ch : Channel) (p : Params) (t : Block) (h : ch.tagBytes p.bs ≤ t.length) :
    (ch.macfOutput p t).output = t.take (ch.tagBytes p.bs) :=
  List.take_left' (List.length_take_of_le h)

/-- The completion leaves the valid bytes of the written channel's DOUT (R141). -/
theorem State.output_ended (s : State) (calls : List PrimCall) (ch : Channel) (h : s.pch < s.chans.length) :
    ((s.ended calls ch).chan s.pch).output = ch.output := by
  rw [s.chan_ended_same ch calls h]; rfl

/-- The channel PCH admits CMAC under the parameters `p`, its CFG is that of `cfg`, its chaining value is `z`, and any subkeys
it holds are those of its key (R144, R243, R245). -/
structure State.CmacReady (s : State) (p : Params) (cfg : Channel) (z : Block) : Prop where
  lt : s.pch < s.chans.length
  admits : s.Admits .cmac .encrypt
  params : s.params = p
  slot : s.cur.keySlot = cfg.keySlot
  tagLen : s.cur.tagLen = cfg.tagLen
  chain : s.cur.macChain p.bs = z
  subkeys : s.cur.Subkeys p

/-- With no message open the chaining value is the zero block (R245). -/
theorem Channel.macChain_of_closed (ch : Channel) (bs : Nat) (h : ch.cmip = false) : ch.macChain bs = zeros bs :=
  if_neg (Bool.eq_false_iff.1 h)

theorem State.cmacReady_of_inv (s : State) (c : Nat) (h : s.Inv) (hc : c < s.params.nch)
    (ha : State.Admits { s with pch := c } .cmac .encrypt) (hcmip : (s.chan c).cmip = false) :
    State.CmacReady { s with pch := c } s.params (s.chan c) (zeros s.params.bs) := by
  obtain ⟨-, -, -, hsub⟩ := s.chan_inv c h hc
  exact ⟨s.length_chans h ▸ hc, ha, rfl, rfl, rfl, (s.chan c).macChain_of_closed _ hcmip, hsub⟩

section
variable {s : State} {c : Nat} {p : Params} {cfg : Channel} {z : Block}

/-- Preparing a segment keeps the channel ready. -/
theorem State.CmacReady.prepare (h : State.CmacReady { s with pch := c } p cfg z) (seg : Block) (i : Instr) :
    (s.prepare c seg i).CmacReady p cfg z := by
  have hc : c < s.chans.length := h.lt
  refine ⟨by simpa using hc, s.prepare_admits c seg i _ _ hc h.admits, h.params, ?_, ?_, ?_, ?_⟩ <;>
    rw [s.cur_prepare c seg i hc]
  · exact h.slot
  · exact h.tagLen
  · exact h.chain
  · exact h.subkeys

theorem State.CmacReady.din_prepare (h : State.CmacReady { s with pch := c } p cfg z) (seg : Block) (i : Instr) :
    (s.prepare c seg i).cur.din = seg ++ zeros (p.bs - seg.length) := by
  rw [s.cur_prepare c seg i h.lt, ← h.params]

/-- MACU keeps it ready, with its block as the chaining value: it leaves FATAL, CFG and the subkeys, and binds CMAC. -/
theorem State.CmacReady.ended (h : s.CmacReady p cfg z) (calls : List PrimCall) (z' : Block) :
    (s.ended calls (s.cur.macuOutput z')).CmacReady p cfg z' := by
  obtain ⟨hc, ⟨hfatal, -, hkey, -⟩, hp, hslot, htl, -, hsub⟩ := h
  refine ⟨by simpa using hc, ⟨hfatal, ?_, ?_, nofun, nofun⟩, hp, ?_, ?_, ?_, ?_⟩ <;> rw [s.cur_ended _ calls hc]
  · exact fun _ => rfl
  · exact hkey
  · exact hslot
  · exact htl
  · rfl
  · exact hsub

/-- MACU.CMAC of a block in a run: it puts nothing out and chains the block (R245). -/
theorem State.CmacReady.run_macuCmac (h : State.CmacReady { s with pch := c } p cfg z) (seg : Block)
    (hseg : seg.length = p.bs) :
    ∃ t, State.CmacReady { t with pch := c } p cfg (cbcStep p cfg.keySlot z seg) ∧
      ∀ rest, State.runSegments c .macuCmac s (seg :: rest) =
        (State.runSegments c .macuCmac t rest).map fun r => (r.1, (t.chan c).output :: r.2) := by
  have hready := h.prepare seg (.macuCmac seg.length)
  have hdin : (s.prepare c seg (.macuCmac seg.length)).cur.din = seg := by
    rw [h.din_prepare, hseg, Nat.sub_self]; exact seg.append_nil
  have hexec := exec_macuCmac _ hready.admits
  rw [hready.params, hdin, hready.slot, hready.chain, ← hseg] at hexec
  exact ⟨_, hready.ended _ _, fun rest => s.runSegments_cons _ c .macuCmac seg rest hexec⟩

/-- MACU.CMAC of every block, by induction on the blocks. -/
theorem State.CmacReady.run_macuCmac_blocks (init : List Block) (h : State.CmacReady { s with pch := c } p cfg z)
    (hinit : ∀ b ∈ init, b.length = p.bs) :
    ∃ t outs, State.runSegments c .macuCmac s init = some (t, outs) ∧
      State.CmacReady { t with pch := c } p cfg (cbcChain p cfg.keySlot z init) := by
  induction init generalizing s z with
  | nil => exact ⟨s, [], rfl, h⟩
  | cons x rest ih =>
    obtain ⟨hx, hrest⟩ := List.forall_mem_cons.1 hinit
    obtain ⟨t, hready, hrun⟩ := h.run_macuCmac x hx
    obtain ⟨u, outs, hrunRest, hready'⟩ := ih hready hrest
    exact ⟨u, _ :: outs, by rw [hrun, hrunRest]; rfl, hready'⟩

/-- MACF.CMAC of the last segment outputs the tag's first TL bytes (R246, R247). -/
theorem State.CmacReady.run_macfCmac (h : State.CmacReady { s with pch := c } p cfg z) (last : Block)
    (hlast : last.length ≤ p.bs) (hopen : ¬(last.length = 0 ∧ (s.chan c).cmip = true))
    (htl : cfg.tagBytes p.bs ≤ (cbcStep p cfg.keySlot z (cmacLast p cfg.keySlot last)).length) :
    ∃ u, State.runSegments c .macfCmac s [last] =
      some (u, [(cbcStep p cfg.keySlot z (cmacLast p cfg.keySlot last)).take (cfg.tagBytes p.bs)]) := by
  have hready := h.prepare last (.macfCmac last.length)
  have hcmip : (s.prepare c last (.macfCmac last.length)).cur.cmip = (s.chan c).cmip := by rw [s.cur_prepare c last _ h.lt]
  have hmasked := Channel.maskedBlock_reference _ p last hready.subkeys (h.din_prepare last _)
  have htag : (s.prepare c last (.macfCmac last.length)).cur.tagBytes p.bs = cfg.tagBytes p.bs := by
    simp only [Channel.tagBytes, hready.tagLen]
  have hexec := exec_macfCmac _ hready.admits last.length (hready.params ▸ hlast) (hcmip ▸ hopen)
  rw [hready.params, hready.chain, hmasked, hready.slot] at hexec
  have hout := Channel.output_macfOutput _ p _ (htag ▸ htl)
  rw [htag] at hout
  rw [s.runSegments_singleton _ c .macfCmac last hexec]
  exact ⟨_, congrArg (fun b => some (_, [b])) ((State.output_ended _ _ _ hready.lt).trans hout)⟩

end

/-- Settles O57: MACU's blocks leave the reference's chaining value, and MACF's masked block is the reference's. -/
theorem cmacTagIsAFunctionOfTheMessage : Obligations.CmacTagIsAFunctionOfTheMessage := by
  intro s c init last hinv hc hadm hcmip hinit hlast hopen
  have hready := s.cmacReady_of_inv c hinv hc hadm hcmip
  have htl : (s.chan c).tagBytes s.params.bs ≤ (cmacTag s.params (s.chan c).keySlot init last).length := by
    obtain ⟨-, hlegal, -⟩ := s.chan_inv c hinv hc
    exact length_cmacTag s.params _ init last hinit hlast ▸ (s.chan c).tagBytes_le s.params hlegal
  obtain ⟨t, outs, hrun, hready'⟩ := hready.run_macuCmac_blocks init hinit
  have hopenLast : ¬(last.length = 0 ∧ (t.chan c).cmip = true) := by
    rintro ⟨hempty, hmid⟩
    cases init with
    | nil =>
      cases hrun
      exact Bool.false_ne_true (hcmip.symm.trans hmid)
    | cons x rest => exact hopen (List.cons_ne_nil x rest) (List.length_eq_zero_iff.1 hempty)
  obtain ⟨u, hlastRun⟩ := hready'.run_macfCmac last hlast hopenLast htl
  rw [← cmacTag_eq, Channel.tagBytes_eq] at hlastRun
  exact ⟨t, outs, u, hrun, hlastRun⟩

end Sys2Proof.Machine
